-- ==== Sys2Proof/Word.lean ====
section
/-! DEFINITION. The word types of FMCD: bytes, 16-bit patterns, the 32-bit words of the host port, and the 4-byte
network identity (00_scope.md R11, 10_state.md R31, 30_encoding.md R64). -/

namespace Sys2Proof

/-- A byte: every header field but `request_id`, every payload element, every character (R11, R26). -/
abbrev Byte := BitVec 8

/-- A 16-bit pattern; no rule reads one as a signed number (R31). -/
abbrev Half := BitVec 16

/-- A word of the host port. R39 speaks of a register's port word and no rule gives its width: 32 bits is the model's
choice, the width of the widest register of the map (R38; DEDUCED, log entry 29). -/
abbrev PortWord := BitVec 32

/-- A network identity: 4 bytes in the order they are sent. A byte sequence, not an integer (R47, R112, R130). -/
structure NetId where
  b0 : Byte
  b1 : Byte
  b2 : Byte
  b3 : Byte
  deriving DecidableEq, Repr, Inhabited

/-- The broadcast network identity, all bytes 0xFF (00_scope.md R9). -/
def NetId.broadcast : NetId := ⟨0xFF#8, 0xFF#8, 0xFF#8, 0xFF#8⟩

/-- The identity after reset: four zero bytes (R38). -/
def NetId.zero : NetId := ⟨0#8, 0#8, 0#8, 0#8⟩

end Sys2Proof
end

