-- ==== Sys2Proof/Config.lean ====
section
/-! DEFINITION. The configuration registers of FMCD as one record (`Cfg`, 00_scope.md R10, 10_state.md R32 to R36), and
the free values: constants without a body for what the spec calls `any value` (93_implementation_defined.md U3, U5, U6,
U7). No proof can learn what a free value is. -/

namespace Sys2Proof

/-- The scalar configuration and template registers (R32 to R36). The two template payloads are arrays of the register
map and live in memory. A 1-bit register is a `Bool`. -/
structure Cfg where
  /-- `CFG_DATE_MODE`: false PLAIN, true BCD (R32, R114). -/
  dateBcd : Bool
  /-- `CFG_HEX_UPPER` (R32). -/
  hexUpper : Bool
  /-- `CFG_MAX_RETRY` (R33). -/
  maxRetry : Half
  /-- `CFG_RETRY_DELAY`, abstract ticks; no rule depends on it (R33, R224). -/
  retryDelay : BitVec 32
  /-- `CFG_EXT_TEMP` (R33). -/
  extTemp : Half
  /-- `CFG_EXT_TEMP_OFF` (R33). -/
  extTempOff : Byte
  /-- `CFG_LEN_SAT_TEMP` (R32). -/
  lenSatTemp : Byte
  /-- `CFG_SAT_TEMP_EN` (R32). -/
  satTempEn : Bool
  /-- `TPL_ANN_EN` (R34). -/
  annEn : Bool
  /-- `TPL_ANN_PLEN` (R34). -/
  annPlen : Byte
  /-- `TPL_INIT_REQUEST_ID` (R35). -/
  initRequestId : Half
  /-- `TPL_INIT_ROA` (R35). -/
  initRoa : Byte
  /-- `TPL_INIT_MSG_TYPE` (R35). -/
  initMsgType : Byte
  /-- `TPL_INIT_DATA[0]` (R35). -/
  initData0 : Byte
  /-- `TPL_INIT_DATA[1]` (R35). -/
  initData1 : Byte
  /-- `TPL_TEMP_EN` (R36). -/
  tempEn : Bool
  /-- `TPL_TEMP_PLEN` (R36). -/
  tempPlen : Byte
  /-- `TPL_TEMP_REQUEST_ID` (R36). -/
  tempRequestId : Half
  /-- `TPL_TEMP_ROA` (R36). -/
  tempRoa : Byte
  /-- `TPL_TEMP_MSG_TYPE` (R36). -/
  tempMsgType : Byte
  deriving DecidableEq, Repr

/-- The reset configuration (R38, R41): all zero but the scenario-C values of the init template (R35). -/
def Cfg.reset : Cfg where
  dateBcd := false
  hexUpper := false
  maxRetry := 0#16
  retryDelay := 0#32
  extTemp := 0#16
  extTempOff := 0#8
  lenSatTemp := 0#8
  satTempEn := false
  annEn := false
  annPlen := 0#8
  initRequestId := 0#16
  initRoa := 0x01#8
  initMsgType := 0x43#8
  initData0 := 0x00#8
  initData1 := 0x00#8
  tempEn := false
  tempPlen := 0#8
  tempRequestId := 0#16
  tempRoa := 0#8
  tempMsgType := 0#8

/-- FREE VALUE: what a byte of `PAYLOAD`, `BUF`, `TXT` or a template payload holds while nothing has written it since
the reset numbered by the first argument; the second argument is its register number (R42, U7; DESIGN CHOICE, log entry 3). -/
opaque Config.powerUpByte : Nat → Nat → Byte

/-- FREE VALUE: what the host port returns for a view that does not apply or has no value, and for an array element at
or beyond its length register (R21, U5, U6, U7; DESIGN CHOICE, log entry 4). The argument numbers the draws. -/
opaque Config.openWord : Nat → PortWord

/-- FREE VALUE: the radio's network identity after a failed `set_network_id` (U3; DESIGN CHOICE, log entry 5). -/
opaque Config.openNetId : Nat → NetId

/-- FREE VALUE: whether the radio is in standby after a failed `sleep`, or after a later call reached a sleeping radio
(R209, N16, U3; DESIGN CHOICE, log entry 5). -/
opaque Config.openStandby : Nat → Bool

end Sys2Proof
end

