-- ==== Sys2Proof/Syntax.lean ====
section
/-! DEFINITION. The syntax of FMCD: the parts of a frame, the items that travel on the transport link, and `Instr`, one
constructor per mnemonic of spec/opcode_table.json (30_encoding.md R63, R71, R85, R86). `Encoded` is an instruction
before it is decoded: one unit of one of the formats of R63. -/

namespace Sys2Proof

/-- The header record (41_metadata_codec.md R93). -/
structure Metadata where
  length : Byte
  toAddr : Byte
  fromAddr : Byte
  requestId : Half
  reqOrAnswer : Byte
  msgType : Byte
  deriving DecidableEq, Repr

/-- A frame: header and raw payload bytes (42_frame_dispatch.md R98). -/
structure Frame where
  head : Metadata
  payload : List Byte
  deriving DecidableEq, Repr

/-- Family tags (R99); "undefined" is `none`. -/
inductive Family where
  | satellite
  | probe
  | boiler
  deriving DecidableEq, Repr

/-- Variant tags of all families (R71, R100). -/
inductive Variant where
  | unknown
  | assocBroadcast
  | setTempResponse
  | init
  | assocAnnounce
  | tempReport
  deriving DecidableEq, Repr

/-- The header fields a frame instruction leaves free: `length` and `from_addr` are fixed by the row and the payload,
the other four select nothing (R74). -/
structure FrameHead where
  toAddr : Byte
  requestId : Half
  reqOrAnswer : Byte
  msgType : Byte
  deriving DecidableEq, Repr

/-- The three satellite addresses; the three rows per satellite mnemonic are one instruction (R125). -/
inductive SatAddr where
  | sat08
  | sat09
  | sat0A
  deriving DecidableEq, Repr

/-- The five fields of the flag byte, each of its own width (R76, R122). -/
structure FlagFields where
  mode1 : BitVec 3
  frost : Bool
  mode2 : BitVec 2
  override : Bool
  sun : Bool
  deriving DecidableEq, Repr

/-- The transport link attached at start-up (R129). -/
inductive Link where
  | serial
  | broker
  deriving DecidableEq, Repr

/-- The four broker command kinds (R143). -/
inductive BrokerTag where
  | listen
  | sleep
  | setNetworkId
  | send
  deriving DecidableEq, Repr

/-- What the block hands to the link: a serial command line, as characters with its line end (R137), or a broker
envelope as the abstract pair (R143, D36). -/
inductive WireItem where
  | line (chars : List Byte)
  | envelope (tag : BrokerTag) (field : Option (List Byte))
  deriving DecidableEq, Repr

/-- The four blocking calls of the transport port (R129). -/
inductive Call where
  /-- `T.set_network_id(nid)` (R130) -/
  | setNetworkId (nid : NetId)
  /-- `T.send(b)` (R131) -/
  | send (bytes : List Byte)
  /-- `T.receive()` (R132) -/
  | receive
  /-- `T.sleep()` (R133) -/
  | sleep
  deriving DecidableEq, Repr

/-- One encoded instruction, in one of the formats of R63, as the machine meets it. -/
inductive Encoded where
  /-- a byte written to `CMD` (format HOSTCMD, R86) -/
  | hostCmd (code : Byte)
  /-- the byte written at the flag byte's place (format FLAGBYTE, R76) -/
  | flagByte (x : Byte)
  /-- bytes handed to the codec (format FRAME, R64) -/
  | frame (bytes : List Byte)
  /-- a command line or envelope the transport takes from the link (R85) -/
  | wire (item : WireItem)
  /-- the characters of one incoming serial line, line end included (R142) -/
  | incomingLine (chars : List Byte)
  /-- the hex text field of one incoming broker envelope (R148) -/
  | incomingField (text : List Byte)
  deriving DecidableEq, Repr

/-- The instructions: one constructor per mnemonic of spec/opcode_table.json, in the table's order. -/
inductive Instr where
  /-- BOILER.ASSOC_BROADCAST (R112) -/
  | boilerAssocBroadcast (h : FrameHead) (payload : List Byte)
  /-- BOILER.SET_TEMP_RESPONSE (R113) -/
  | boilerSetTempResponse (h : FrameHead) (payload : List Byte)
  /-- BOILER.UNKNOWN (R115) -/
  | boilerUnknown (h : FrameHead) (payload : List Byte)
  /-- PROBE.INIT (R118) -/
  | probeInit (h : FrameHead) (payload : List Byte)
  /-- PROBE.ASSOC_ANNOUNCE (R119) -/
  | probeAssocAnnounce (h : FrameHead) (payload : List Byte)
  /-- PROBE.TEMP_REPORT (R120) -/
  | probeTempReport (h : FrameHead) (payload : List Byte)
  /-- PROBE.UNKNOWN (R124) -/
  | probeUnknown (h : FrameHead) (payload : List Byte)
  /-- SATELLITE.TEMP_REPORT (R126) -/
  | satelliteTempReport (a : SatAddr) (h : FrameHead) (payload : List Byte)
  /-- SATELLITE.UNKNOWN (R128) -/
  | satelliteUnknown (a : SatAddr) (h : FrameHead) (payload : List Byte)
  /-- FRAME.ILLEGAL_SOURCE (R79): a header whose source selects no family, and whatever follows it -/
  | frameIllegalSource (m : Metadata) (tail : List Byte)
  /-- FRAME.ILLEGAL_LENGTH (R80 a, b): bytes that hold no header or whose length byte is below 6 -/
  | frameIllegalLength (bytes : List Byte)
  /-- FRAME.HEADER (R64, R80 c): a header with fewer payload bytes than its length byte counts -/
  | frameHeader (m : Metadata) (part : List Byte)
  /-- FLAGS (R76) -/
  | flags (f : FlagFields)
  /-- NID: (R138) -/
  | serialNid (nid : NetId)
  /-- LST: (R139) -/
  | serialLst
  /-- CMD: (R140) -/
  | serialCmd (bytes : List Byte)
  /-- SLP: (R141) -/
  | serialSlp
  /-- SERIAL.INCOMING (R142): the line up to and excluding CR LF -/
  | serialIncoming (text : List Byte)
  /-- LISTEN (R144) -/
  | brokerListen
  /-- SLEEP (R145) -/
  | brokerSleep
  /-- SET_NETWORK_ID (R146) -/
  | brokerSetNetworkId (nid : NetId)
  /-- SEND (R147) -/
  | brokerSend (bytes : List Byte)
  /-- BROKER.INCOMING (R148) -/
  | brokerIncoming (text : List Byte)
  /-- NOP (R173) -/
  | nop
  /-- HEXDEC (R174) -/
  | hexdec
  /-- HEXENC (R175) -/
  | hexenc
  /-- DECODE (R176) -/
  | decode
  /-- ENCODE (R177) -/
  | encode
  /-- ASSOC_START (R178) -/
  | assocStart
  /-- ASSOC_RESET (R179) -/
  | assocReset
  /-- T_SLEEP (R180) -/
  | tSleep
  /-- T_SET_NID (R181) -/
  | tSetNid
  /-- T_SEND (R182) -/
  | tSend
  /-- T_RECEIVE (R183) -/
  | tReceive
  /-- HOSTCMD.ILLEGAL (R184) -/
  | hostIllegal (code : Byte)
  deriving DecidableEq, Repr

end Sys2Proof
end

