-- ==== Sys2Proof/Machine/Cause.lean ====
section
/-! DEFINITION. The causes a command can end with, their codes, and what a raise carries (60_exceptions.md R187,
R189). -/

namespace Sys2Proof.Machine

/-- The causes (R187). -/
inductive Cause where
  | ok
  | malformedHex
  | malformedHeader
  | unknownSource
  | truncatedPayload
  | lengthMismatch
  | transportFailure
  | retryExhausted
  | illegalCommand
  | notIdle
  | configInvalid
  deriving DecidableEq, Repr

/-- The code of a cause in `RESULT` (R187, D5). -/
def Cause.code : Cause → Byte
  | .ok => 0#8
  | .malformedHex => 1#8
  | .malformedHeader => 2#8
  | .unknownSource => 3#8
  | .truncatedPayload => 4#8
  | .lengthMismatch => 5#8
  | .transportFailure => 6#8
  | .retryExhausted => 7#8
  | .illegalCommand => 8#8
  | .notIdle => 9#8
  | .configInvalid => 10#8

/-- `raise C(expected = e, actual = a)` as a value (R12, R189). A cause that defines no count records 0. -/
structure Raised where
  cause : Cause
  expected : Nat
  actual : Nat
  deriving DecidableEq, Repr

/-- What a successful end records: cause `OK`, both counts 0 (R173, R187). -/
def Raised.success : Raised := ⟨.ok, 0, 0⟩

end Sys2Proof.Machine
end

