-- ==== Sys2Proof/Machine/Flags.lean ====
section
/-! DEFINITION. Every flag computation of the spec: the four bits of `STATUS` (10_state.md R28) and the flag byte of a
temperature report (30_encoding.md R76, 44_probe_family.md R121, R122). There are no condition codes (R28). -/

namespace Sys2Proof.Machine

/-- `STATUS` from its four flags: bit 0 BUSY, bit 1 DONE, bit 2 ERR, bit 3 FATAL, bits 7 to 4 zero (R28). -/
def mkStatus (busy done err fatal : Bool) : Byte :=
  BitVec.ofNat 8 (busy.toNat + done.toNat * 2 + err.toNat * 4 + fatal.toNat * 8)

/-- `STATUS.BUSY` (R28). -/
def statusBusy (st : Byte) : Bool := st.getLsbD 0

/-- `STATUS.DONE` (R28). -/
def statusDone (st : Byte) : Bool := st.getLsbD 1

/-- `STATUS.ERR` (R28). -/
def statusErr (st : Byte) : Bool := st.getLsbD 2

/-- `STATUS.FATAL` (R28). -/
def statusFatal (st : Byte) : Bool := st.getLsbD 3

/-- `STATUS` at the write of `CMD`: BUSY set, DONE cleared; ERR still equals `RESULT ≠ 0`, FATAL is sticky (R28,
R172). -/
def statusStart (st : Byte) : Byte := mkStatus true false (statusErr st) (statusFatal st)

/-- `STATUS` when a command ends with cause `c`: BUSY cleared, DONE set, ERR equal to `RESULT ≠ 0`, FATAL set by
`UnknownSource` and sticky (R28, R192, R203). -/
def statusEnd (st : Byte) (c : Cause) : Byte :=
  mkStatus false true (decide (c ≠ .ok)) (statusFatal st || decide (c = .unknownSource))

/-- `UnpackFlags(x)` (R121). -/
def unpackFlags (x : Byte) : FlagFields where
  mode1 := x.extractLsb' 5 3
  frost := x.getLsbD 4
  mode2 := x.extractLsb' 2 2
  override := x.getLsbD 1
  sun := x.getLsbD 0

/-- `PackFlags(mode1, frost, mode2, override, sun)` by the rule's sum (R122). -/
def packFlags (f : FlagFields) : Byte :=
  BitVec.ofNat 8 (f.mode1.toNat * 32 + f.frost.toNat * 16 + f.mode2.toNat * 4 + f.override.toNat * 2 + f.sun.toNat)

/-- The response convention: bit 7 of `req_or_answer` set, bits 6 to 0 copied (R75). -/
def responseFlag (roa : Byte) : Byte := roa ||| 0x80#8

end Sys2Proof.Machine
end

