-- ==== Sys2Proof/Machine/Bytes.lean ====
section
/-! DEFINITION. Byte-order helpers (00_scope.md R11, 20_memory.md R46, R47) and the byte form of a network identity. -/

namespace Sys2Proof.Machine

/-- `BE16(b0, b1) = b0·256 + b1` (R11, R67). -/
def be16 (b0 b1 : Byte) : Half := BitVec.ofNat 16 (b0.toNat * 256 + b1.toNat)

/-- `LE16(b0, b1) = b0 + b1·256` (R11, R77). -/
def le16 (b0 b1 : Byte) : Half := BitVec.ofNat 16 (b0.toNat + b1.toNat * 256)

/-- `v[15:8]` (R67, R77). -/
def hiByte (v : Half) : Byte := v.extractLsb' 8 8

/-- `v[7:0]` (R67, R77). -/
def loByte (v : Half) : Byte := v.extractLsb' 0 8

/-- The four bytes of a network identity, in call order (R130). -/
def netIdBytes (n : NetId) : List Byte := [n.b0, n.b1, n.b2, n.b3]

/-- A network identity read from the first four bytes of a sequence, if there are four (R130, R181). -/
def netIdOf : List Byte → Option NetId
  | b0 :: b1 :: b2 :: b3 :: _ => some ⟨b0, b1, b2, b3⟩
  | _ => none

end Sys2Proof.Machine
end

