-- ==== Sys2Proof/Machine/FrameCodec.lean ====
section
/-! DEFINITION. The frame metadata codec and the frame dispatcher: `MetaDecode`, `MetaEncode`, `FamilyOf`, `VariantOf`,
`DecodeFrame`, `EncodeFrame` (41_metadata_codec.md R94, R95; 42_frame_dispatch.md R99 to R104). -/

namespace Sys2Proof.Machine

/-- `MetaDecode(b)` (R94): seven bytes are needed. -/
def metaDecode : List Byte → Except Raised Metadata
  | l :: t :: f :: r1 :: r0 :: q :: y :: _ => .ok ⟨l, t, f, be16 r1 r0, q, y⟩
  | b => .error ⟨.malformedHeader, 7, b.length⟩

/-- `MetaEncode(m)` (R95). -/
def metaEncode (m : Metadata) : List Byte :=
  [m.length, m.toAddr, m.fromAddr, hiByte m.requestId, loByte m.requestId, m.reqOrAnswer, m.msgType]

/-- `FamilyOf(a)`; "undefined" is `none` (R99). -/
def familyOf (a : Byte) : Option Family :=
  if a = 0x08#8 ∨ a = 0x09#8 ∨ a = 0x0A#8 then some .satellite
  else if a = 0x20#8 then some .probe
  else if a = 0x80#8 then some .boiler
  else none

/-- `VariantOf(fam, L, Cfg)` (R100). The sums `6 + PLEN` are over the natural numbers (R227). -/
def variantOf (fam : Family) (len : Byte) (cfg : Cfg) : Variant :=
  match fam with
  | .boiler =>
    if len.toNat = 11 then .assocBroadcast
    else if len.toNat = 49 then .setTempResponse
    else .unknown
  | .probe =>
    if len.toNat = 8 then .init
    else if cfg.annEn = true ∧ len.toNat = 6 + cfg.annPlen.toNat then .assocAnnounce
    else if cfg.tempEn = true ∧ len.toNat = 6 + cfg.tempPlen.toNat then .tempReport
    else .unknown
  | .satellite =>
    if cfg.satTempEn = true ∧ len = cfg.lenSatTemp then .tempReport
    else .unknown

/-- The code of a family in `FAMILY`; 3 is NONE (R18). -/
def familyCode : Option Family → BitVec 2
  | some .satellite => 0#2
  | some .probe => 1#2
  | some .boiler => 2#2
  | none => 3#2

/-- The code of a variant in `VARIANT`, per family (R19). -/
def variantCode : Family → Variant → BitVec 3
  | .boiler, .assocBroadcast => 1#3
  | .boiler, .setTempResponse => 2#3
  | .probe, .init => 1#3
  | .probe, .assocAnnounce => 2#3
  | .probe, .tempReport => 3#3
  | .satellite, .tempReport => 1#3
  | _, _ => 0#3

/-- `DecodeFrame(b)` with the number of bytes consumed, checks in the order of R101 and R102. The rule's `Cfg` argument
selects no step of it: the variant is read off the stored frame (R98). -/
def decodeFrame (b : List Byte) : Except Raised (Frame × Nat) :=
  match metaDecode b with
  | .error e => .error e
  | .ok m =>
    if m.length.toNat < 6 then .error ⟨.malformedHeader, 6, m.length.toNat⟩
    else if familyOf m.fromAddr = none then .error ⟨.unknownSource, 0, m.fromAddr.toNat⟩
    else if b.length - 1 < m.length.toNat then .error ⟨.truncatedPayload, m.length.toNat, b.length - 1⟩
    else .ok (⟨m, (b.drop 7).take (m.length.toNat - 6)⟩, m.length.toNat + 1)

/-- `EncodeFrame(m, payload)` (R104): source check, then length check. -/
def encodeFrame (m : Metadata) (payload : List Byte) : Except Raised (List Byte) :=
  if familyOf m.fromAddr = none then .error ⟨.unknownSource, 0, m.fromAddr.toNat⟩
  else if m.length.toNat ≠ 6 + payload.length then .error ⟨.lengthMismatch, 6 + payload.length, m.length.toNat⟩
  else .ok (metaEncode m ++ payload)

/-- The source byte of a satellite address (R125). -/
def satByte : SatAddr → Byte
  | .sat08 => 0x08#8
  | .sat09 => 0x09#8
  | .sat0A => 0x0A#8

/-- The satellite address of a source byte `FamilyOf` has placed in the satellite family (R99, R125). -/
def satAddrOf (a : Byte) : SatAddr :=
  if a = 0x08#8 then .sat08 else if a = 0x09#8 then .sat09 else .sat0A

/-- The `length` byte of a frame with this payload: `6 + |payload|` (R65). -/
def lengthByte (payload : List Byte) : Byte := BitVec.ofNat 8 (6 + payload.length)

/-- The frame a frame instruction stands for: its row fixes the source, its payload fixes the length (R65, R74). -/
def frameOf (src : Byte) (h : FrameHead) (payload : List Byte) : Frame :=
  ⟨⟨lengthByte payload, h.toAddr, src, h.requestId, h.reqOrAnswer, h.msgType⟩, payload⟩

end Sys2Proof.Machine
end

