-- ==== Sys2Proof/Machine/HexCodec.lean ====
section
/-! DEFINITION. The hex codec: `HexDecode` and `HexEncode` (40_hex_codec.md R87 to R89; character codes of
30_encoding.md R83: PRESUMED, log entry 25). -/

namespace Sys2Proof.Machine

/-- `HexVal(c)`: the value of a hex digit of either case, `none` for any other character (R87). -/
def hexVal (c : Byte) : Option Nat :=
  if 0x30 ≤ c.toNat ∧ c.toNat ≤ 0x39 then some (c.toNat - 0x30)
  else if 0x61 ≤ c.toNat ∧ c.toNat ≤ 0x66 then some (c.toNat - 0x61 + 10)
  else if 0x41 ≤ c.toNat ∧ c.toNat ≤ 0x46 then some (c.toNat - 0x41 + 10)
  else none

/-- `HexChar(n, upper)` for a nibble (R89). -/
def hexChar (n : Nat) (upper : Bool) : Byte :=
  if n ≤ 9 then BitVec.ofNat 8 (0x30 + n)
  else if upper then BitVec.ofNat 8 (0x41 + (n - 10))
  else BitVec.ofNat 8 (0x61 + (n - 10))

/-- The index of the first character that is no hex digit, counting from the second argument (R88). -/
def firstBadChar : List Byte → Nat → Option Nat
  | [], _ => none
  | c :: t, i => if (hexVal c).isNone then some i else firstBadChar t (i + 1)

/-- The bytes of a text of digit pairs, high nibble first (R83, R88). -/
def hexPairs : List Byte → List Byte
  | c0 :: c1 :: t => BitVec.ofNat 8 ((hexVal c0).getD 0 * 16 + (hexVal c1).getD 0) :: hexPairs t
  | _ => []

/-- `HexDecode(t)`: odd length first, then the first bad character (R88, R190). -/
def hexDecode (t : List Byte) : Except Raised (List Byte) :=
  if t.length % 2 ≠ 0 then .error ⟨.malformedHex, 0, t.length⟩
  else match firstBadChar t 0 with
    | some i => .error ⟨.malformedHex, 0, i⟩
    | none => .ok (hexPairs t)

/-- `HexEncode(b, upper)` (R89). -/
def hexEncode (upper : Bool) : List Byte → List Byte
  | [] => []
  | b :: bs => hexChar (b.toNat / 16) upper :: hexChar (b.toNat % 16) upper :: hexEncode upper bs

end Sys2Proof.Machine
end

