-- ==== Sys2Proof/Machine/LinkText.lean ====
section
/-! DEFINITION. The text of the two wire framings: serial command lines and broker envelopes (46_transport.md R137 to
R147). The character codes are the standard ASCII ones (R137; PRESUMED, log entry 25). -/

namespace Sys2Proof.Machine

/-- LF (R137). -/
def charLF : Byte := 0x0A#8

/-- CR (R137). -/
def charCR : Byte := 0x0D#8

/-- The characters of `NID:` and the space before its argument (R138). -/
def nidKeyword : List Byte := [0x4E#8, 0x49#8, 0x44#8, 0x3A#8, 0x20#8]

/-- The characters of `LST:` (R139). -/
def lstKeyword : List Byte := [0x4C#8, 0x53#8, 0x54#8, 0x3A#8]

/-- The characters of `CMD:` and the space before its argument (R140). -/
def cmdKeyword : List Byte := [0x43#8, 0x4D#8, 0x44#8, 0x3A#8, 0x20#8]

/-- The characters of `SLP:` (R141). -/
def slpKeyword : List Byte := [0x53#8, 0x4C#8, 0x50#8, 0x3A#8]

/-- The serial line of a transport call (R138 to R141). -/
def serialLine (upper : Bool) : Call → List Byte
  | .setNetworkId n => nidKeyword ++ (hexEncode upper (netIdBytes n) ++ [charLF])
  | .send b => cmdKeyword ++ (hexEncode upper b ++ [charLF])
  | .receive => lstKeyword ++ [charLF]
  | .sleep => slpKeyword ++ [charLF]

/-- The broker envelope of a transport call (R144 to R147). -/
def brokerEnvelope (upper : Bool) : Call → WireItem
  | .setNetworkId n => .envelope .setNetworkId (some (hexEncode upper (netIdBytes n)))
  | .send b => .envelope .send (some (hexEncode upper b))
  | .receive => .envelope .listen none
  | .sleep => .envelope .sleep none

/-- What a transport call puts on the attached link (R129, R137, R143). -/
def wireForm (link : Link) (upper : Bool) (c : Call) : WireItem :=
  match link with
  | .serial => .line (serialLine upper c)
  | .broker => brokerEnvelope upper c

/-- The rest of a sequence after a given beginning, if it begins so. -/
def afterStart : List Byte → List Byte → Option (List Byte)
  | [], l => some l
  | _ :: _, [] => none
  | p :: ps, c :: cs => if p = c then afterStart ps cs else none

/-- A line without its final LF, if it ends in one (R137). -/
def beforeLF (l : List Byte) : Option (List Byte) :=
  if l.getLast? = some charLF then some l.dropLast else none

/-- An incoming line: the characters up to and excluding the first CR LF, and what follows it (R142). -/
def splitLine : List Byte → Option (List Byte × List Byte)
  | a :: b :: t =>
    if a = charCR ∧ b = charLF then some ([], t)
    else match splitLine (b :: t) with
      | some (line, rest) => some (a :: line, rest)
      | none => none
  | _ => none

end Sys2Proof.Machine
end

