-- ==== Sys2Proof/WellFormed.lean ====
section
/-! DEFINITION. Well-formed instructions: the terms of `Instr` that an encoding of the spec stands for under a
configuration (30_encoding.md R71, R73, R79, R80; 46_transport.md R131, R142; 48_host_commands.md R184). -/

namespace Sys2Proof
open Sys2Proof.Machine

/-- A frame payload of the given family whose length selects the given variant (R65, R71). -/
def payloadSelects (cfg : Cfg) (fam : Family) (v : Variant) (payload : List Byte) : Bool :=
  decide (payload.length ≤ 249) && decide (variantOf fam (lengthByte payload) cfg = v)

/-- The argument of a send: "1 to 256 bytes" (R131). -/
def sendable (bytes : List Byte) : Bool := decide (1 ≤ bytes.length) && decide (bytes.length ≤ 256)

/-- Bytes that hold no frame because of their length: fewer than seven, or a length byte below 6 (R80 a, b). -/
def badLength : List Byte → Bool
  | l :: rest => decide (rest.length + 1 < 7) || decide (l.toNat < 6)
  | [] => true

/-- The well-formed instructions under a configuration. -/
def WellFormed (cfg : Cfg) : Instr → Bool
  | .boilerAssocBroadcast _ p => payloadSelects cfg .boiler .assocBroadcast p
  | .boilerSetTempResponse _ p => payloadSelects cfg .boiler .setTempResponse p
  | .boilerUnknown _ p => payloadSelects cfg .boiler .unknown p
  | .probeInit _ p => payloadSelects cfg .probe .init p
  | .probeAssocAnnounce _ p => payloadSelects cfg .probe .assocAnnounce p
  | .probeTempReport _ p => payloadSelects cfg .probe .tempReport p
  | .probeUnknown _ p => payloadSelects cfg .probe .unknown p
  | .satelliteTempReport _ _ p => payloadSelects cfg .satellite .tempReport p
  | .satelliteUnknown _ _ p => payloadSelects cfg .satellite .unknown p
  | .frameIllegalSource m _ => decide (6 ≤ m.length.toNat) && decide (familyOf m.fromAddr = none)
  | .frameIllegalLength b => badLength b
  | .frameHeader m part =>
    decide (6 ≤ m.length.toNat) && decide (familyOf m.fromAddr ≠ none) && decide (6 + part.length < m.length.toNat)
  | .flags _ => true
  | .serialNid _ => true
  | .serialLst => true
  | .serialCmd b => sendable b
  | .serialSlp => true
  | .serialIncoming text => (splitLine text).isNone
  | .brokerListen => true
  | .brokerSleep => true
  | .brokerSetNetworkId _ => true
  | .brokerSend b => sendable b
  | .brokerIncoming _ => true
  | .nop => true
  | .hexdec => true
  | .hexenc => true
  | .decode => true
  | .encode => true
  | .assocStart => true
  | .assocReset => true
  | .tSleep => true
  | .tSetNid => true
  | .tSend => true
  | .tReceive => true
  | .hostIllegal c => decide (0x0B ≤ c.toNat)

end Sys2Proof
end

