-- ==== Sys2Proof/Decode.lean ====
section
/-! DEFINITION. The decoder, total on any encoded unit and rejecting by name, and after it the encoder, written from the
same encoding tables (30_encoding.md R64, R71, R76, R79, R80, R86; 46_transport.md R137 to R148). A frame's variant
depends on the configured lengths, so the decoder takes the configuration (R73). -/

namespace Sys2Proof
open Sys2Proof.Machine

/-- Why a unit is no instruction. -/
inductive DecodeError where
  /-- a line on the serial link that is none of the four command lines of R137 -/
  | notACommandLine
  /-- a broker envelope whose field is not the one its kind has (R143 to R147) -/
  | notAnEnvelope
  /-- incoming characters that are not one line ended by CR LF (R142) -/
  | notOneLine
  deriving DecidableEq, Repr

/-- A host command byte (R86, R184). -/
def decodeHostCmd (c : Byte) : Instr :=
  match c.toNat with
  | 0x00 => .nop
  | 0x01 => .hexdec
  | 0x02 => .hexenc
  | 0x03 => .decode
  | 0x04 => .encode
  | 0x05 => .assocStart
  | 0x06 => .assocReset
  | 0x07 => .tSleep
  | 0x08 => .tSetNid
  | 0x09 => .tSend
  | 0x0A => .tReceive
  | _ => .hostIllegal c

/-- The header fields that select nothing (R74). -/
def freeHead (m : Metadata) : FrameHead := ⟨m.toAddr, m.requestId, m.reqOrAnswer, m.msgType⟩

/-- The row of the opcode map a complete frame falls in (R71). -/
def decodeVariant (cfg : Cfg) (fam : Family) (m : Metadata) (payload : List Byte) : Instr :=
  match fam with
  | .boiler =>
    match variantOf .boiler m.length cfg with
    | .assocBroadcast => .boilerAssocBroadcast (freeHead m) payload
    | .setTempResponse => .boilerSetTempResponse (freeHead m) payload
    | _ => .boilerUnknown (freeHead m) payload
  | .probe =>
    match variantOf .probe m.length cfg with
    | .init => .probeInit (freeHead m) payload
    | .assocAnnounce => .probeAssocAnnounce (freeHead m) payload
    | .tempReport => .probeTempReport (freeHead m) payload
    | _ => .probeUnknown (freeHead m) payload
  | .satellite =>
    match variantOf .satellite m.length cfg with
    | .tempReport => .satelliteTempReport (satAddrOf m.fromAddr) (freeHead m) payload
    | _ => .satelliteUnknown (satAddrOf m.fromAddr) (freeHead m) payload

/-- Bytes in the FRAME format, judged in the order of R101: no header or length below 6, unknown source, cut payload,
then the opcode map. Bytes after the frame are not part of it (R103). -/
def decodeFrameInstr (cfg : Cfg) (b : List Byte) : Instr :=
  match metaDecode b with
  | .error _ => .frameIllegalLength b
  | .ok m =>
    if m.length.toNat < 6 then .frameIllegalLength b
    else match familyOf m.fromAddr with
      | none => .frameIllegalSource m (b.drop 7)
      | some fam =>
        if b.length - 1 < m.length.toNat then .frameHeader m (b.drop 7)
        else decodeVariant cfg fam m ((b.drop 7).take (m.length.toNat - 6))

/-- The four bytes of a hex argument that names a network identity (R138, R146). -/
def decodeNidText (t : List Byte) : Option NetId :=
  match hexDecode t with
  | .ok [b0, b1, b2, b3] => some ⟨b0, b1, b2, b3⟩
  | _ => none

/-- The bytes of a hex argument that carries a frame, 1 to 256 of them (R131, R140, R147). -/
def decodeSendText (t : List Byte) : Option (List Byte) :=
  match hexDecode t with
  | .ok b => if sendable b = true then some b else none
  | .error _ => none

/-- A serial command line (R137 to R141). -/
def decodeLine (chars : List Byte) : Except DecodeError Instr :=
  match beforeLF chars with
  | none => .error .notACommandLine
  | some l =>
    if l = lstKeyword then .ok .serialLst
    else if l = slpKeyword then .ok .serialSlp
    else match afterStart nidKeyword l, afterStart cmdKeyword l with
      | some t, _ =>
        match decodeNidText t with
        | some n => .ok (.serialNid n)
        | none => .error .notACommandLine
      | none, some t =>
        match decodeSendText t with
        | some b => .ok (.serialCmd b)
        | none => .error .notACommandLine
      | none, none => .error .notACommandLine

/-- A broker command envelope (R143 to R147). -/
def decodeEnvelope : BrokerTag → Option (List Byte) → Except DecodeError Instr
  | .listen, none => .ok .brokerListen
  | .sleep, none => .ok .brokerSleep
  | .setNetworkId, some t =>
    match decodeNidText t with
    | some n => .ok (.brokerSetNetworkId n)
    | none => .error .notAnEnvelope
  | .send, some t =>
    match decodeSendText t with
    | some b => .ok (.brokerSend b)
    | none => .error .notAnEnvelope
  | _, _ => .error .notAnEnvelope

/-- The decoder, over every format of R63. -/
def decode (cfg : Cfg) : Encoded → Except DecodeError Instr
  | .hostCmd c => .ok (decodeHostCmd c)
  | .flagByte x => .ok (.flags (unpackFlags x))
  | .frame b => .ok (decodeFrameInstr cfg b)
  | .wire (.line chars) => decodeLine chars
  | .wire (.envelope tag field) => decodeEnvelope tag field
  | .incomingLine chars =>
    match splitLine chars with
    | some (text, []) => .ok (.serialIncoming text)
    | _ => .error .notOneLine
  | .incomingField text => .ok (.brokerIncoming text)

/-- The bytes of a frame (R64, R95). -/
def frameBytes (f : Frame) : List Byte := metaEncode f.head ++ f.payload

/-- The encoder: the words of a well-formed instruction. `upper` is the letter case of hex arguments (R89). -/
def encode (upper : Bool) : Instr → Encoded
  | .boilerAssocBroadcast h p => .frame (frameBytes (frameOf 0x80#8 h p))
  | .boilerSetTempResponse h p => .frame (frameBytes (frameOf 0x80#8 h p))
  | .boilerUnknown h p => .frame (frameBytes (frameOf 0x80#8 h p))
  | .probeInit h p => .frame (frameBytes (frameOf 0x20#8 h p))
  | .probeAssocAnnounce h p => .frame (frameBytes (frameOf 0x20#8 h p))
  | .probeTempReport h p => .frame (frameBytes (frameOf 0x20#8 h p))
  | .probeUnknown h p => .frame (frameBytes (frameOf 0x20#8 h p))
  | .satelliteTempReport a h p => .frame (frameBytes (frameOf (satByte a) h p))
  | .satelliteUnknown a h p => .frame (frameBytes (frameOf (satByte a) h p))
  | .frameIllegalSource m tail => .frame (metaEncode m ++ tail)
  | .frameIllegalLength b => .frame b
  | .frameHeader m part => .frame (metaEncode m ++ part)
  | .flags f => .flagByte (packFlags f)
  | .serialNid n => .wire (.line (serialLine upper (.setNetworkId n)))
  | .serialLst => .wire (.line (serialLine upper .receive))
  | .serialCmd b => .wire (.line (serialLine upper (.send b)))
  | .serialSlp => .wire (.line (serialLine upper .sleep))
  | .serialIncoming text => .incomingLine (text ++ [charCR, charLF])
  | .brokerListen => .wire (brokerEnvelope upper .receive)
  | .brokerSleep => .wire (brokerEnvelope upper .sleep)
  | .brokerSetNetworkId n => .wire (brokerEnvelope upper (.setNetworkId n))
  | .brokerSend b => .wire (brokerEnvelope upper (.send b))
  | .brokerIncoming text => .incomingField text
  | .nop => .hostCmd 0x00#8
  | .hexdec => .hostCmd 0x01#8
  | .hexenc => .hostCmd 0x02#8
  | .decode => .hostCmd 0x03#8
  | .encode => .hostCmd 0x04#8
  | .assocStart => .hostCmd 0x05#8
  | .assocReset => .hostCmd 0x06#8
  | .tSleep => .hostCmd 0x07#8
  | .tSetNid => .hostCmd 0x08#8
  | .tSend => .hostCmd 0x09#8
  | .tReceive => .hostCmd 0x0A#8
  | .hostIllegal c => .hostCmd c

/-- The bytes of a word of `n` bytes, most significant first: the opcode table's numbering for FRAME and SERIAL_LINE rows
("frame[0]<<16 | frame[1]<<8 | frame[2]"). -/
def wordBytes : Nat → Nat → List Byte
  | 0, _ => []
  | n + 1, w => BitVec.ofNat 8 (w / 256 ^ n) :: wordBytes n w

/-- The bytes of the frame that begins with the given bytes and whose other bytes are zero: `length + 1` bytes, and at
least a header (R65). -/
def zeroFilledFrame (start : List Byte) : List Byte :=
  start ++ List.replicate (max 7 ((start.headD 0#8).toNat + 1) - start.length) 0#8

/-- The serial line that begins with a four-character keyword and whose argument stands for zero bits: a zero network
identity, one zero byte, or no argument (R137 to R141; DESIGN CHOICE, log entry 14). -/
def zeroFilledLine (keyword : List Byte) : List Byte :=
  if keyword ++ [0x20#8] = nidKeyword then serialLine false (.setNetworkId NetId.zero)
  else if keyword ++ [0x20#8] = cmdKeyword then serialLine false (.send [0#8])
  else keyword ++ [charLF]

/-- The unit whose bits the opcode table numbers as `w`: one byte is a host command, four bytes are a serial keyword,
any other number of bytes begins a frame (DESIGN CHOICE, log entry 14). -/
def tableUnit (nbits w : Nat) : Encoded :=
  if nbits ≤ 8 then .hostCmd (BitVec.ofNat 8 w)
  else if nbits = 32 then .wire (.line (zeroFilledLine (wordBytes 4 w)))
  else .frame (zeroFilledFrame (wordBytes ((nbits + 7) / 8) w))

/-- The instruction the decoder reads from a word of the opcode table, under the reset configuration. -/
def decodeTableWord (nbits w : Nat) : Option Instr :=
  match decode Cfg.reset (tableUnit nbits w) with
  | .ok i => some i
  | .error _ => none

end Sys2Proof
end

