-- ==== Sys2Proof/Machine/State.lean ====
section
/-! DEFINITION. The state of FMCD as plain data, the outside world's script, the reasons a step can stop, and the state
after reset (10_state.md R15 to R44, 70_reset_and_hazards.md R211 to R213). -/

namespace Sys2Proof.Machine

/-- The eight states of the sequencer (47_association_fsm.md R149). -/
inductive AssocState where
  | idle
  | awaitingBroadcast
  | announced
  | networkSwitched
  | initialized
  | confirming
  | paired
  | failed
  deriving DecidableEq, Repr

/-- What the block is doing between two steps: the transfer or command in progress that R28, R134 and R166 imply. -/
inductive Activity where
  /-- no command is running -/
  | idle
  /-- a handshake runs and the sequencer's next act needs no answer (R166) -/
  | sequencing
  /-- a handshake runs, a receive has been answered and the bytes in `BUF` await the codec (R153, R158) -/
  | decoding
  /-- a transport call is outstanding (R134) -/
  | waiting (c : Call)
  deriving DecidableEq, Repr

/-- What the transport answers to a call (R12, R132). For a receive, `ok` carries the text that arrived on the link: on the
serial link the next characters of the incoming stream, a part of a line, a line, or more than one (R142); on the broker
link the hex text field of one envelope (R148). For any other call the text is not looked at. -/
inductive Answer where
  | ok (text : List Byte)
  | err
  deriving DecidableEq, Repr

/-- One act of the outside world, or a turn given to the block. -/
inductive Event where
  /-- the block, or the transport's link, takes its own next step -/
  | turn
  /-- `HostWrite(number, value)` (R171) -/
  | hostWrite (number : Nat) (value : PortWord)
  /-- `HostRead(number)` (R171) -/
  | hostRead (number : Nat)
  /-- the transport's answer to the call with the given number (R129 to R133, R213; DESIGN CHOICE, log entry 12) -/
  | answer (call : Nat) (a : Answer)
  /-- the reset input is asserted (R211) -/
  | reset
  deriving DecidableEq, Repr

/-- The machine. Fields marked OWN are the model's, not the spec's (INVENTORY.md, State). -/
structure State where
  /-- `FR.LENGTH`, `FR.TO_ADDR`, `FR.FROM_ADDR`, `FR.REQUEST_ID`, `FR.REQ_OR_ANSWER`, `FR.MSG_TYPE` (R16) -/
  fr : Metadata
  /-- `FR.PLEN` (R17) -/
  plen : Byte
  /-- `BUF_LEN` (R25) -/
  bufLen : BitVec 9
  /-- `TXT_LEN` (R26) -/
  txtLen : BitVec 10
  /-- `CMD`: the code of the command started last (R27; DEDUCED, log entry 15) -/
  cmd : Byte
  /-- `STATUS` (R28) -/
  status : Byte
  /-- `RESULT` (R29) -/
  result : Byte
  /-- `ERR_EXPECTED` (R29) -/
  errExpected : Half
  /-- `ERR_ACTUAL` (R29) -/
  errActual : Half
  /-- `ERR_STATE` (R29) -/
  errState : BitVec 3
  /-- `CONSUMED` (R29) -/
  consumed : BitVec 9
  /-- `ASSOC_STATE` (R22) -/
  assoc : AssocState
  /-- `PHASE`, internal (R22, R150) -/
  phase : BitVec 2
  /-- `RETRY_CNT` (R23) -/
  retryCnt : Half
  /-- `BC_REQUEST_ID` (R24) -/
  bcRequestId : Half
  /-- `BC_MSG_TYPE` (R24) -/
  bcMsgType : Byte
  /-- `BC_ROA` (R24) -/
  bcRoa : Byte
  /-- `BC_FROM` (R24) -/
  bcFrom : Byte
  /-- `BC_NETID` (R24) -/
  bcNetId : NetId
  /-- `CFG_*` and the scalar `TPL_*` registers (R32 to R36) -/
  cfg : Cfg
  /-- `PAYLOAD`, `BUF`, `TXT`, `TPL_ANN_PAYLOAD`, `TPL_TEMP_PAYLOAD`, by register number (R38, R45): the bytes that have
  been written since reset -/
  mem : List Host.Cell
  /-- the command in progress (R28, R134, R166) -/
  activity : Activity
  /-- what the block has put on the link and the transport has not yet taken, oldest first (R137, R143) -/
  outbound : List WireItem
  /-- the characters of the serial link's incoming stream that have arrived and that no receive has read yet, oldest first
  (R142; DESIGN CHOICE, log entry 13) -/
  incoming : List Byte
  /-- the attached transport (R129) -/
  link : Link
  /-- the network identity the radio module listens on, held by the transport (R44 a) -/
  radioNetId : NetId
  /-- whether the radio module is in standby (R44 b) -/
  radioStandby : Bool
  /-- OWN: the calls the transport has taken, oldest first (R165, R203) -/
  seen : List Call
  /-- OWN: how many calls the block has made; the number of the last one, so that an answer can say which call it answers
  (R213) -/
  issued : Nat
  /-- OWN: the script of the outside world, next act first; it also says which frame the transport delivers next
  (R14, R44 c, U2) -/
  events : List Event
  /-- OWN: the value the last `HostRead` returned (R171) -/
  portData : PortWord
  /-- OWN: how many resets have happened; names the contents the arrays have while nothing has written them (U7) -/
  epoch : Nat
  /-- OWN: how many free values have been drawn (U3, U5, U6, U7) -/
  draws : Nat
  deriving DecidableEq, Repr

/-- Why no step is possible. None of them ends the machine: another script of the outside world has a step. -/
inductive Fault where
  /-- Raised by a step that finds a transport call outstanding and no further act of the outside world: the call is never
  answered and the run hangs (R134, R167, R221, U15). Safe: the block has no step there. -/
  | hang
  /-- Raised by a step that finds no command running and no further act of the outside world: after reset the block does
  nothing until the host writes `CMD` (R212), and after a finished run it takes no step of its own (R225). Safe. -/
  | quiescent
  /-- Raised by a step of a running sequencer in a pair (`ASSOC_STATE`, `PHASE`) for which R166 has no row with a step.
  Safe; the invariant of Safety.lean excludes it. -/
  | noSequencerStep
  deriving DecidableEq, Repr

/-- Why an instruction is not carried out. -/
inductive Refusal where
  /-- Raised by an arm of `exec` for an instruction that has no meaning yet. Safe. -/
  | notModelled (mnemonic : String)
  /-- Raised by a step in which the transport takes an item from the link that is none of the command lines or envelopes
  of R137 and R143: what the modem or gateway does with it is not in the spec. The block never sends one. Safe. -/
  | unknownWireItem (e : DecodeError)
  deriving DecidableEq, Repr

/-- The outcome of one step of this machine. -/
abbrev Out := Host.Outcome State Fault Refusal

/-- The header registers after reset (R38). -/
def State.resetHead : Metadata := ⟨0#8, 0#8, 0#8, 0#16, 0#8, 0#8⟩

/-- The machine right after reset (R38, R41, R212). The arrays list nothing (R42). The link, the radio and the fields
marked OWN stand at the values of log entries 1, 2 and 6 (DESIGN CHOICE). -/
def State.reset : State where
  fr := State.resetHead
  plen := 0#8
  bufLen := 0#9
  txtLen := 0#10
  cmd := 0#8
  status := 0#8
  result := 0#8
  errExpected := 0#16
  errActual := 0#16
  errState := 0#3
  consumed := 0#9
  assoc := .idle
  phase := 0#2
  retryCnt := 0#16
  bcRequestId := 0#16
  bcMsgType := 0#8
  bcRoa := 0#8
  bcFrom := 0#8
  bcNetId := NetId.zero
  cfg := Cfg.reset
  mem := []
  activity := .idle
  outbound := []
  incoming := []
  link := .serial
  radioNetId := NetId.zero
  radioStandby := false
  seen := []
  issued := 0
  events := []
  portData := 0#32
  epoch := 0
  draws := 0

end Sys2Proof.Machine
end

