-- ==== Sys2Proof/Machine/Ops.lean ====
section
/-! DEFINITION. The named operations over memory, buffers and registers: the canonical memory, the start and the end of
a command, ending with a cause (which is what taking an exception is here, 60_exceptions.md R189, R203), the way out of
`Failed` beside it (R204), and the two ends of a transport call (46_transport.md R129 to R135). -/

namespace Sys2Proof.Machine

/-! ### Memory: the five byte arrays by register number (10_state.md R38, 20_memory.md R45) -/

/-- Register number of `PAYLOAD[0]`. -/
abbrev payloadBase : Nat := 0x1000
/-- Register number of `BUF[0]`. -/
abbrev bufBase : Nat := 0x1100
/-- Register number of `TXT[0]`. -/
abbrev txtBase : Nat := 0x1200
/-- Register number of `TPL_ANN_PAYLOAD[0]`. -/
abbrev annBase : Nat := 0x1400
/-- Register number of `TPL_TEMP_PAYLOAD[0]`. -/
abbrev tempBase : Nat := 0x1500

/-- `PAYLOAD` and the template payloads have 249 elements (R17, R34, R36). -/
abbrev payloadSize : Nat := 249
/-- `BUF` has 256 elements (R25). -/
abbrev bufSize : Nat := 256
/-- `TXT` has 512 elements (R26). -/
abbrev txtSize : Nat := 512

/-- Whether a register number is an element of one of the five arrays (R38). -/
def inArray (a : Nat) : Bool :=
  (decide (payloadBase ≤ a) && decide (a < payloadBase + payloadSize)) ||
  (decide (bufBase ≤ a) && decide (a < bufBase + bufSize)) ||
  (decide (txtBase ≤ a) && decide (a < txtBase + txtSize)) ||
  (decide (annBase ≤ a) && decide (a < annBase + payloadSize)) ||
  (decide (tempBase ≤ a) && decide (a < tempBase + payloadSize))

/-- What a memory holds at an address: `none` where nothing has written it since reset (R42, U7). -/
def Memory.read : List Host.Cell → Nat → Option Byte
  | [], _ => none
  | c :: m, a => if c.1 = a then some c.2 else Memory.read m a

/-- Consecutive cells from an address on. -/
def Memory.cells : Nat → List Byte → List Host.Cell
  | _, [] => []
  | a, b :: bs => (a, b) :: Memory.cells (a + 1) bs

/-- `MemWrite`: the bytes from an address on replaced, everything else as it was (R12). -/
def Memory.write (m : List Host.Cell) (base : Nat) (bytes : List Byte) : List Host.Cell :=
  m.filter (fun c => decide (c.1 < base)) ++
    (Memory.cells base bytes ++ m.filter (fun c => decide (base + bytes.length ≤ c.1)))

/-- Addresses strictly rising. -/
def Memory.rising : List Host.Cell → Bool
  | [] => true
  | c :: m => m.all (fun d => decide (c.1 < d.1)) && Memory.rising m

/-- The canonical form: addresses strictly rising and inside the arrays. An unlisted address holds no value, so no listed
byte can equal what an unlisted one reads as. -/
def Memory.wf (m : List Host.Cell) : Bool := Memory.rising m && m.all (fun c => inArray c.1)

/-- The byte a command reads at a register number: the byte written last, or the free power-up content (R42, U7). -/
def State.byteAt (s : State) (a : Nat) : Byte := (Memory.read s.mem a).getD (Config.powerUpByte s.epoch a)

/-- `MemRead(addr, n)` over the arrays (R12). -/
def State.bytesAt (s : State) (base : Nat) : Nat → List Byte
  | 0 => []
  | n + 1 => s.byteAt base :: s.bytesAt (base + 1) n

/-- `BUF[0 .. BUF_LEN)` (R25). -/
def State.bufBytes (s : State) : List Byte := s.bytesAt bufBase s.bufLen.toNat

/-- `TXT[0 .. TXT_LEN)` (R26). -/
def State.txtBytes (s : State) : List Byte := s.bytesAt txtBase s.txtLen.toNat

/-- `PAYLOAD[0 .. FR.PLEN)` (R17). -/
def State.payloadBytes (s : State) : List Byte := s.bytesAt payloadBase s.plen.toNat

/-- `TPL_ANN_PAYLOAD[0 .. TPL_ANN_PLEN)` (R34). -/
def State.annBytes (s : State) : List Byte := s.bytesAt annBase s.cfg.annPlen.toNat

/-- `TPL_TEMP_PAYLOAD[0 .. TPL_TEMP_PLEN)` (R36). -/
def State.tempBytes (s : State) : List Byte := s.bytesAt tempBase s.cfg.tempPlen.toNat

/-- `BUF[0 .. |b|) <- b; BUF_LEN <- |b|`, cut to the first 256 bytes (R25, R151). -/
def State.setBuf (s : State) (b : List Byte) : State :=
  { s with
    mem := Memory.write s.mem bufBase (b.take bufSize)
    bufLen := BitVec.ofNat 9 (b.take bufSize).length }

/-- `TXT[0 .. |t|) <- t; TXT_LEN <- |t|`; no text of a buffer is longer than 512 characters (R91). -/
def State.setTxt (s : State) (t : List Byte) : State :=
  { s with
    mem := Memory.write s.mem txtBase (t.take txtSize)
    txtLen := BitVec.ofNat 10 (t.take txtSize).length }

/-- `FR <- f`: the six header registers, `FR.PLEN <- length − 6` and `PAYLOAD[0 .. FR.PLEN) <- payload` (R176). -/
def State.setFrame (s : State) (f : Frame) : State :=
  { s with
    fr := f.head
    plen := f.head.length - 6#8
    mem := Memory.write s.mem payloadBase (f.payload.take payloadSize) }

/-- One array element written (R171). -/
def State.setByte (s : State) (a : Nat) (b : Byte) : State :=
  { s with mem := Memory.write s.mem a [b] }

/-! ### The sequencer's state register -/

/-- The code of a sequencer state in `ASSOC_STATE` (R22). -/
def assocCode : AssocState → BitVec 3
  | .idle => 0#3
  | .awaitingBroadcast => 1#3
  | .announced => 2#3
  | .networkSwitched => 3#3
  | .initialized => 4#3
  | .confirming => 5#3
  | .paired => 6#3
  | .failed => 7#3

/-! ### The script and the link -/

/-- The script of the outside world has moved on. -/
def State.withEvents (s : State) (es : List Event) : State := { s with events := es }

/-- The link holds these items and no others. -/
def State.withOutbound (s : State) (ws : List WireItem) : State := { s with outbound := ws }

/-- The incoming serial stream holds these unread characters and no others. -/
def State.withIncoming (s : State) (cs : List Byte) : State := { s with incoming := cs }

/-! ### Commands: start and end -/

/-- The command codes that later steps of the same command look back at (R86). -/
def codeAssocStart : Byte := 0x05#8

/-- `STATUS.BUSY` (R28). -/
def State.busy (s : State) : Bool := statusBusy s.status

/-- Whether the running command is a handshake: `CMD` holds the code of the running command (R27, R178). -/
def State.handshake (s : State) : Bool := decide (s.cmd = codeAssocStart)

/-- A command starts: `STATUS.BUSY <- 1; STATUS.DONE <- 0` (R172). The configuration is not copied: host writes are
ignored while BUSY, so the registers are their own sample (R61; DEDUCED, log entry 7). -/
def State.startCommand (s : State) (code : Byte) : State :=
  { s with cmd := code, status := statusStart s.status, activity := .idle }

/-- A command ends and records its cause, counts and context, all together (R29, R172, R189, R203). This is the one
operation by which a failure is taken: no vector, no handler, no mode change. -/
def State.finish (s : State) (r : Raised) (errState : BitVec 3) (consumed : Nat) : State :=
  { s with
    result := r.cause.code
    errExpected := BitVec.ofNat 16 r.expected
    errActual := BitVec.ofNat 16 r.actual
    errState := errState
    consumed := BitVec.ofNat 9 consumed
    status := statusEnd s.status r.cause
    activity := .idle }

/-- A command ends with `RESULT = 0` and no counts (R173). -/
def State.succeed (s : State) : State := s.finish Raised.success 0#3 0

/-- A command other than a running handshake ends with a cause; `ERR_STATE` and `CONSUMED` are 0 (R203). -/
def State.endWith (s : State) (r : Raised) : State := s.finish r 0#3 0

/-- `fail(cause, expected, actual)` of a running handshake: the state at failure is recorded, then `Failed` (R162,
R163). -/
def State.failHandshake (s : State) (r : Raised) : State :=
  { s.finish r (assocCode s.assoc) 0 with assoc := .failed, phase := 0#2 }

/-- The only way out of `Paired` and `Failed` but reset: the sequencer returns to `Idle` (R164, R179, R204). -/
def State.returnToIdle (s : State) : State :=
  { s with
    assoc := .idle
    phase := 0#2
    retryCnt := 0#16
    bcRequestId := 0#16
    bcMsgType := 0#8
    bcRoa := 0#8
    bcFrom := 0#8
    bcNetId := NetId.zero }

/-- A failure of whatever command is running: inside a handshake it fails the handshake, otherwise it ends the command
(R135, R163, R183). -/
def State.raise (s : State) (r : Raised) : State :=
  if s.handshake then s.failHandshake r else s.endWith r

/-- The reset input (R211 to R213): every register of the block at its reset value, the arrays without a value again.
The transport, what is on its link, and the outside world are not touched (R213; DESIGN CHOICE, log entry 19). The calls
go on being counted, so that an answer to a call from before the reset answers no later one; the unread characters of the
incoming stream came in answer to such a call and go with it (R213; DESIGN CHOICE, log entry 13). -/
def State.assertReset (s : State) : State :=
  { State.reset with
    outbound := s.outbound
    link := s.link
    radioNetId := s.radioNetId
    radioStandby := s.radioStandby
    seen := s.seen
    issued := s.issued
    events := s.events
    portData := s.portData
    epoch := s.epoch + 1
    draws := s.draws }

/-! ### Transport calls -/

/-- The block makes a transport call and waits: its text goes on the link, and the call takes the next number (R129, R134,
R137, R143). -/
def State.issue (s : State) (c : Call) : State :=
  { s with
    activity := .waiting c
    issued := s.issued + 1
    outbound := s.outbound ++ [wireForm s.link s.cfg.hexUpper c] }

/-- The transport takes a call that reaches a sleeping radio: whether the radio stays in standby is not in the source
(R209, N16), so it is a free value; a radio that is awake stays awake. -/
def State.disturbRadio (s : State) : State :=
  if s.radioStandby then { s with radioStandby := Config.openStandby s.draws, draws := s.draws + 1 } else s

/-- The transport takes a call from the link: the effect the spec gives the call on the radio module, and the call is
among those the transport has seen (R130 to R133, R203). -/
def State.takeCall (s : State) (c : Call) : State :=
  match c with
  | .setNetworkId n => { s.disturbRadio with radioNetId := n, seen := s.seen ++ [c] }
  | .send _ => { s.disturbRadio with seen := s.seen ++ [c] }
  | .receive => { s.disturbRadio with seen := s.seen ++ [c] }
  | .sleep => { s with radioStandby := true, seen := s.seen ++ [c] }

/-- A failed call leaves what it asked of the radio undetermined (U3). -/
def State.radioAfterErr (s : State) (c : Call) : State :=
  match c with
  | .setNetworkId _ => { s with radioNetId := Config.openNetId s.draws, draws := s.draws + 1 }
  | .sleep => { s with radioStandby := Config.openStandby s.draws, draws := s.draws + 1 }
  | .send _ => s
  | .receive => s

/-- Whether the block waits for the answer to a receive the transport has taken (R132, R134). -/
def State.awaitsFrame (s : State) : Bool := decide (s.activity = .waiting .receive) && s.outbound.isEmpty

/-- Whether an answer to the call with this number is an answer to the block's last call, and the transport has taken that
call: any other answer is to a call the block no longer waits for, or comes before the call (R134, R213, R220). -/
def State.answersLast (s : State) (call : Nat) : Bool := decide (call = s.issued) && s.outbound.isEmpty

/-- Characters arrive on the serial link: they are the next ones of the incoming stream (R142). The broker link has no
stream. -/
def State.arrive (s : State) (chars : List Byte) : State :=
  match s.link with
  | .serial => s.withIncoming (s.incoming ++ chars)
  | .broker => s

/-- A stream cut at its first line end: the line with its CR LF, and the characters after it; `none` while no line is
complete (R142). -/
def nextLine (stream : List Byte) : Option (List Byte × List Byte) :=
  (splitLine stream).map (fun p => (p.1 ++ [charCR, charLF], p.2))

/-- The line that a waiting receive reads next from the incoming stream, with the state in which it has been read
(R142). -/
def State.lineDue (s : State) : Option (List Byte × State) :=
  if s.awaitsFrame = true ∧ s.link = .serial then
    (nextLine s.incoming).map (fun p => (p.1, s.withIncoming p.2))
  else none

end Sys2Proof.Machine
end

