-- ==== Sys2Proof/Machine/Operands.lean ====
section
/-! DEFINITION. The operand forms: the derived registers `FAMILY` and `VARIANT` and every typed view of the payload
(10_state.md R18, R19, R21; 43_boiler_family.md R112 to R114; 44_probe_family.md R118, R121, R123; 45_satellite_family.md
R127). A view that does not apply or is out of bounds is `none` (R21, R51). -/

namespace Sys2Proof.Machine

/-- `FamilyOf(FR.FROM_ADDR)` (R18). -/
def State.family (s : State) : Option Family := familyOf s.fr.fromAddr

/-- `FAMILY` (R18). -/
def State.familyReg (s : State) : BitVec 2 := familyCode s.family

/-- `VARIANT` (R19). -/
def State.variantReg (s : State) : BitVec 3 :=
  match s.family with
  | some fam => variantCode fam (variantOf fam s.fr.length s.cfg)
  | none => 0#3

/-- `FR` holds a frame: `FR.LENGTH ≥ 6`, `FR.PLEN = FR.LENGTH − 6` and `FAMILY ≠ NONE` (R20). -/
def State.holdsFrame (s : State) : Bool :=
  decide (6 ≤ s.fr.length.toNat) && decide (s.plen.toNat = s.fr.length.toNat - 6) && s.family.isSome

/-- Whether `FAMILY` and `VARIANT` have the given values, the condition under which a view applies (R21). -/
def State.selects (s : State) (fam : Family) (v : Variant) : Bool :=
  decide (s.family = some fam) && decide (variantOf fam s.fr.length s.cfg = v)

/-- A temperature report of either family is selected (R121, R127). -/
def State.selectsTempReport (s : State) : Bool := s.selects .probe .tempReport || s.selects .satellite .tempReport

/-- `PAYLOAD[i]` for a view: defined below `FR.PLEN` and inside the array (R17, R51). -/
def State.payloadAt (s : State) (i : Nat) : Option Byte :=
  if i < s.plen.toNat ∧ i < payloadSize then some (s.byteAt (payloadBase + i)) else none

/-- A little-endian 16-bit field at a payload offset (R77). -/
def State.le16At (s : State) (o : Nat) : Option Half :=
  match s.payloadAt o, s.payloadAt (o + 1) with
  | some lo, some hi => some (le16 lo hi)
  | _, _ => none

/-- `V_BC_PREFIX` (R112). -/
def State.vBcPrefix (s : State) : Option Byte :=
  if s.selects .boiler .assocBroadcast then s.payloadAt 0 else none

/-- `V_NETID` (R112). -/
def State.vNetId (s : State) : Option NetId :=
  if s.selects .boiler .assocBroadcast then
    match s.payloadAt 1, s.payloadAt 2, s.payloadAt 3, s.payloadAt 4 with
    | some b0, some b1, some b2, some b3 => some ⟨b0, b1, b2, b3⟩
    | _, _, _, _ => none
  else none

/-- `V_TEMPERATURE` (R113). -/
def State.vTemperature (s : State) : Option Half :=
  if s.selects .boiler .setTempResponse then s.le16At 2 else none

/-- `V_CONSIGNE` (R113). -/
def State.vConsigne (s : State) : Option Half :=
  if s.selects .boiler .setTempResponse then s.le16At 16 else none

/-- `DateByte(b, mode)`: the value in PLAIN mode, the two-digit decimal value in BCD mode, `none` where a BCD digit is
above 9 (R78, R114). -/
def dateByte (bcd : Bool) (b : Byte) : Option Byte :=
  if bcd then
    if b.toNat / 16 ≤ 9 ∧ b.toNat % 16 ≤ 9 then some (BitVec.ofNat 8 (10 * (b.toNat / 16) + b.toNat % 16)) else none
  else some b

/-- A date view at a payload offset (R114). -/
def State.dateAt (s : State) (o : Nat) : Option Byte :=
  if s.selects .boiler .setTempResponse then (s.payloadAt o).bind (dateByte s.cfg.dateBcd) else none

/-- `V_YEAR` (R114). -/
def State.vYear (s : State) : Option Byte := s.dateAt 5

/-- `V_MONTH` (R114). -/
def State.vMonth (s : State) : Option Byte := s.dateAt 6

/-- `V_DAY` (R114). -/
def State.vDay (s : State) : Option Byte := s.dateAt 7

/-- `V_DATE_VALID`: the AND of the three valid bits (R114). -/
def State.vDateValid (s : State) : Option Bool :=
  if s.selects .boiler .setTempResponse then
    match s.payloadAt 5, s.payloadAt 6, s.payloadAt 7 with
    | some y, some m, some d =>
      some ((dateByte s.cfg.dateBcd y).isSome && (dateByte s.cfg.dateBcd m).isSome && (dateByte s.cfg.dateBcd d).isSome)
    | _, _, _ => none
  else none

/-- `V_INIT_DATA`: two bytes in payload order (R118). -/
def State.vInitData (s : State) : Option (Byte × Byte) :=
  if s.selects .probe .init then
    match s.payloadAt 0, s.payloadAt 1 with
    | some d0, some d1 => some (d0, d1)
    | _, _ => none
  else none

/-- `V_EXT_TEMP`, at the configured offset (R123). -/
def State.vExtTemp (s : State) : Option Half :=
  if s.selects .probe .tempReport then s.le16At s.cfg.extTempOff.toNat else none

/-- The payload offset of the flag byte of a selected temperature report: the last one, `FR.PLEN − 1` (R121, R127). -/
def State.flagOffset (s : State) : Option Nat :=
  if s.selectsTempReport = true ∧ 1 ≤ s.plen.toNat ∧ s.plen.toNat ≤ payloadSize then some (s.plen.toNat - 1) else none

/-- `V_FLAGS` (R121). -/
def State.vFlags (s : State) : Option Byte := s.flagOffset.bind s.payloadAt

/-- `V_MODE1`, `V_FROST`, `V_MODE2`, `V_OVERRIDE`, `V_SUN` together: `UnpackFlags(V_FLAGS)` (R121). -/
def State.vFlagFields (s : State) : Option FlagFields := s.vFlags.map unpackFlags

/-! ### Operands the sequencer builds its frames from -/

/-- The configuration condition of `ASSOC_START` (R37). -/
def cfgWF (cfg : Cfg) : Bool :=
  cfg.annEn && decide (cfg.annPlen.toNat ≤ 249) && cfg.tempEn && decide (cfg.tempPlen.toNat ≤ 249) &&
    decide (cfg.extTempOff.toNat + 2 ≤ cfg.tempPlen.toNat)

/-- The announce frame's header (R154). -/
def State.announceHead (s : State) : Metadata :=
  ⟨BitVec.ofNat 8 (6 + s.cfg.annPlen.toNat), s.bcFrom, 0x20#8, s.bcRequestId, responseFlag s.bcRoa, s.bcMsgType⟩

/-- The init frame's header (R156). -/
def State.initHead (s : State) : Metadata :=
  ⟨8#8, s.bcFrom, 0x20#8, s.cfg.initRequestId, s.cfg.initRoa, s.cfg.initMsgType⟩

/-- The init frame's payload (R156). -/
def State.initPayload (s : State) : List Byte := [s.cfg.initData0, s.cfg.initData1]

/-- The temperature report's header (R159). -/
def State.reportHead (s : State) : Metadata :=
  ⟨BitVec.ofNat 8 (6 + s.cfg.tempPlen.toNat), s.bcFrom, 0x20#8, s.cfg.tempRequestId, s.cfg.tempRoa, s.cfg.tempMsgType⟩

/-- The temperature report's payload: the template's bytes with the exterior temperature, little-endian, at the
configured offset of the copy (R159). -/
def State.reportPayload (s : State) : List Byte :=
  (s.tempBytes.set s.cfg.extTempOff.toNat (loByte s.cfg.extTemp)).set (s.cfg.extTempOff.toNat + 1) (hiByte s.cfg.extTemp)

end Sys2Proof.Machine
end

