-- ==== Sys2Proof/Machine/Sequencer.lean ====
section
/-! DEFINITION. The association sequencer: its acts, its reaction to an answer and to a decoded frame, row by row of the
step table (47_association_fsm.md R152 to R166). One row of the table is taken in several steps here: the act that makes
the call, the transport taking it, the answer, and, for a receive, the codec (DESIGN CHOICE, log entry 10). -/

namespace Sys2Proof.Machine

/-- A `send(x)` act: the encoded bytes go to `BUF` first, then the call is made (R151). `EncodeFrame` cannot fail here
under `CfgWF` (R154); where it does, the handshake fails with its cause (R162). -/
def State.sendFrame (s : State) (m : Metadata) (payload : List Byte) : State :=
  match encodeFrame m payload with
  | .ok b => (s.setBuf b).issue (.send b)
  | .error r => s.failHandshake r

/-- Entry to the confirm loop (R157). -/
def State.enterConfirming (s : State) : State :=
  { s with retryCnt := 0#16, assoc := .confirming, phase := 0#2 }

/-- An iteration of the confirm loop starts, or the retry bound is reached (R158 PHASE 0, R161). The wait of
`CFG_RETRY_DELAY` ticks has no effect (R224). -/
def State.startIteration (s : State) : State :=
  if s.cfg.maxRetry.toNat ≤ s.retryCnt.toNat then
    s.failHandshake ⟨.retryExhausted, s.cfg.maxRetry.toNat, s.retryCnt.toNat⟩
  else { s with retryCnt := s.retryCnt + 1#16, phase := 1#2 }

/-- The sequencer's own act in its present state and phase; `none` where R166 has no row with one. -/
def State.sequencerAct (s : State) : Option State :=
  match s.assoc with
  | .idle => some (s.issue (.setNetworkId NetId.broadcast))
  | .awaitingBroadcast =>
    if s.phase = 0#2 then some (s.issue .receive)
    else if s.phase = 1#2 then some (s.sendFrame s.announceHead s.annBytes)
    else none
  | .announced => some (s.issue (.setNetworkId s.bcNetId))
  | .networkSwitched => some (s.sendFrame s.initHead s.initPayload)
  | .initialized => some s.enterConfirming
  | .confirming =>
    if s.phase = 0#2 then some s.startIteration
    else if s.phase = 1#2 then some (s.sendFrame s.reportHead s.reportPayload)
    else if s.phase = 2#2 then some (s.issue .receive)
    else none
  | .paired => none
  | .failed => none

/-- The sequencer after a call other than a receive was answered `ok` (R152, R154, R155, R156, R158). -/
def State.sequencerAnswered (s : State) : State :=
  match s.assoc with
  | .idle => { s with activity := .sequencing, assoc := .awaitingBroadcast, phase := 0#2 }
  | .awaitingBroadcast => { s with activity := .sequencing, assoc := .announced, phase := 0#2 }
  | .announced => { s with activity := .sequencing, assoc := .networkSwitched, phase := 0#2 }
  | .networkSwitched => { s with activity := .sequencing, assoc := .initialized, phase := 0#2 }
  | .confirming => { s with activity := .sequencing, phase := 2#2 }
  | .initialized => { s with activity := .sequencing }
  | .paired => { s with activity := .sequencing }
  | .failed => { s with activity := .sequencing }

/-- The frame is `BOILER.ASSOC_BROADCAST` (R153). -/
def isAssocBroadcast (cfg : Cfg) (f : Frame) : Bool :=
  decide (familyOf f.head.fromAddr = some .boiler) &&
    decide (variantOf .boiler f.head.length cfg = .assocBroadcast)

/-- `IsBoiler(f)` (R116). -/
def isBoiler (f : Frame) : Bool := decide (familyOf f.head.fromAddr = some .boiler)

/-- The broadcast latches: header fields of the accepted broadcast and payload bytes 1 to 4 (R154). -/
def State.latchBroadcast (s : State) (f : Frame) : State :=
  { s with
    bcRequestId := f.head.requestId
    bcMsgType := f.head.msgType
    bcRoa := f.head.reqOrAnswer
    bcFrom := f.head.fromAddr
    bcNetId := (netIdOf (f.payload.drop 1)).getD s.bcNetId }

/-- The sequencer's reaction to a frame it has received and decoded: in `AwaitingBroadcast` a boiler association
broadcast is latched and any other frame is dropped (R153, D20); in `Confirming` a boiler frame ends the handshake in
`Paired` and any other starts the next iteration (R158, R160). No other state receives. -/
def State.frameReceived (s : State) (f : Frame) : State :=
  match s.assoc with
  | .awaitingBroadcast =>
    if isAssocBroadcast s.cfg f then { s.latchBroadcast f with phase := 1#2, activity := .sequencing }
    else { s with phase := 0#2, activity := .sequencing }
  | .confirming =>
    if isBoiler f then ({ s with assoc := .paired, phase := 0#2 }).succeed
    else { s with phase := 0#2, activity := .sequencing }
  | .idle => { s with activity := .sequencing }
  | .announced => { s with activity := .sequencing }
  | .networkSwitched => { s with activity := .sequencing }
  | .initialized => { s with activity := .sequencing }
  | .paired => { s with activity := .sequencing }
  | .failed => { s with activity := .sequencing }

end Sys2Proof.Machine
end

