-- ==== Sys2Proof/Machine/Frames.lean ====
section
/-! DEFINITION. The meanings of the FRAME rows and of the flag byte: what the codec does with one frame's bytes
(42_frame_dispatch.md R101, R104; 43_boiler_family.md; 44_probe_family.md; 45_satellite_family.md; 30_encoding.md R76,
R79, R80). The codec works for the sequencer while a received frame awaits it, and otherwise for the host's `DECODE` (DEDUCED, log entry 26). -/

namespace Sys2Proof.Machine

/-- A frame has decoded: all of `FR` is written (R176). For the sequencer its reaction follows (R153, R158); for the
host the command ends with `CONSUMED = length + 1` (R176). -/
def State.frameDecoded (s : State) (f : Frame) : State :=
  if s.activity = .decoding then (s.setFrame f).frameReceived f
  else (s.setFrame f).finish Raised.success 0#3 (f.head.length.toNat + 1)

/-- A frame has not decoded: nothing of `FR` changes (R176, R189). The sequencer fails the handshake with the cause
(R163); for the host the command ends with it (R176). -/
def State.frameRejected (s : State) (r : Raised) : State :=
  if s.activity = .decoding then s.failHandshake r else s.endWith r

/-- The codec's whole act on a byte sequence (R101, R153, R158, R176). -/
def State.runCodec (s : State) (b : List Byte) : State :=
  match decodeFrame b with
  | .ok (f, _) => s.frameDecoded f
  | .error r => s.frameRejected r

/-- BOILER.ASSOC_BROADCAST (R112). -/
def execBoilerAssocBroadcast (h : FrameHead) (payload : List Byte) (s : State) : Out :=
  .next (s.frameDecoded (frameOf 0x80#8 h payload))

/-- BOILER.SET_TEMP_RESPONSE (R113, R114). -/
def execBoilerSetTempResponse (h : FrameHead) (payload : List Byte) (s : State) : Out :=
  .next (s.frameDecoded (frameOf 0x80#8 h payload))

/-- BOILER.UNKNOWN (R115). -/
def execBoilerUnknown (h : FrameHead) (payload : List Byte) (s : State) : Out :=
  .next (s.frameDecoded (frameOf 0x80#8 h payload))

/-- PROBE.INIT (R118). -/
def execProbeInit (h : FrameHead) (payload : List Byte) (s : State) : Out :=
  .next (s.frameDecoded (frameOf 0x20#8 h payload))

/-- PROBE.ASSOC_ANNOUNCE (R119). -/
def execProbeAssocAnnounce (h : FrameHead) (payload : List Byte) (s : State) : Out :=
  .next (s.frameDecoded (frameOf 0x20#8 h payload))

/-- PROBE.TEMP_REPORT (R120). -/
def execProbeTempReport (h : FrameHead) (payload : List Byte) (s : State) : Out :=
  .next (s.frameDecoded (frameOf 0x20#8 h payload))

/-- PROBE.UNKNOWN (R124). -/
def execProbeUnknown (h : FrameHead) (payload : List Byte) (s : State) : Out :=
  .next (s.frameDecoded (frameOf 0x20#8 h payload))

/-- SATELLITE.TEMP_REPORT (R126). -/
def execSatelliteTempReport (a : SatAddr) (h : FrameHead) (payload : List Byte) (s : State) : Out :=
  .next (s.frameDecoded (frameOf (satByte a) h payload))

/-- SATELLITE.UNKNOWN (R128). -/
def execSatelliteUnknown (a : SatAddr) (h : FrameHead) (payload : List Byte) (s : State) : Out :=
  .next (s.frameDecoded (frameOf (satByte a) h payload))

/-- FRAME.ILLEGAL_SOURCE: `UnknownSource(0, from_addr)` (R79, R101 step 3, R192). -/
def execFrameIllegalSource (m : Metadata) (_tail : List Byte) (s : State) : Out :=
  .next (s.frameRejected ⟨.unknownSource, 0, m.fromAddr.toNat⟩)

/-- FRAME.ILLEGAL_LENGTH: `MalformedHeader(7, n)` for fewer than seven bytes, else `MalformedHeader(6, length)` (R80 a, b,
R101 steps 1 and 2, R191). -/
def execFrameIllegalLength (bytes : List Byte) (s : State) : Out :=
  .next (s.frameRejected
    (if bytes.length < 7 then ⟨.malformedHeader, 7, bytes.length⟩
     else ⟨.malformedHeader, 6, (bytes.headD 0#8).toNat⟩))

/-- FRAME.HEADER: the header is read (R94) and the payload it counts is not all there, `TruncatedPayload(length, n − 1)`
(R80 c, R101 step 4, R193). -/
def execFrameHeader (m : Metadata) (part : List Byte) (s : State) : Out :=
  .next (s.frameRejected ⟨.truncatedPayload, m.length.toNat, 6 + part.length⟩)

/-- FLAGS: the five fields, packed, become the flag byte of the temperature report selected in `FR`: its last payload
byte (R76, R121, R122). Where `FR` has no place for a flag byte nothing is written (R121; DESIGN CHOICE, log entry 11). -/
def execFlags (f : FlagFields) (s : State) : Out :=
  .next (match s.flagOffset with
    | some o => s.setByte (payloadBase + o) (packFlags f)
    | none => s)

end Sys2Proof.Machine
end

