-- ==== Sys2Proof/Machine/Transport.lean ====
section
/-! DEFINITION. The meanings of the SERIAL_LINE and BROKER_ENVELOPE rows and the arrival of answers (46_transport.md R129
to R148). An outgoing row is executed by the transport when it takes the item from the link; an incoming row by the
block's end of the link. -/

namespace Sys2Proof.Machine

/-- A receive has been answered with bytes: they go to `BUF`, cut to 256 (R25, R151, R183). In a handshake the codec is
next (R153, R158); in `T_RECEIVE` the command ends (R183). A frame nobody waits for is ignored (R213). -/
def State.deliver (s : State) (b : List Byte) : State :=
  if s.awaitsFrame then
    if s.handshake then { s.setBuf b with activity := .decoding } else (s.setBuf b).succeed
  else s

/-- A receive has been answered `malformed`: cause `MalformedHex` with no counts, `BUF` unchanged (R148, R163, R183,
R190). -/
def State.deliverMalformed (s : State) : State :=
  if s.awaitsFrame then s.raise ⟨.malformedHex, 0, 0⟩ else s

/-- A call other than a receive has been answered `ok` (R166, R180, R181, R182). -/
def State.callSucceeded (s : State) : State :=
  if s.handshake then s.sequencerAnswered else s.succeed

/-- A call has been answered `err`: never retried; the handshake fails or the command ends with `TransportFailure`
(R135, R162, R180 to R183, R195). The spec does not say what becomes of the unread characters of the incoming serial
stream, a line that a time-out cuts short among them: they stay, and the next receive reads them before what arrives later
(R142; DESIGN CHOICE, log entry 13). -/
def State.callFailed (s : State) (c : Call) : State :=
  (s.radioAfterErr c).raise ⟨.transportFailure, 0, 0⟩

/-- An answer that completes no delivery: it counts only for the block's last call, where the block waits for it and the
transport has taken it; any other answer is ignored (R134, R213). Characters that complete no line stay in the incoming
stream (R142). -/
def State.answered (s : State) (call : Nat) (a : Answer) : State :=
  match s.activity with
  | .waiting c =>
    if s.answersLast call then
      match a with
      | .err => s.callFailed c
      | .ok text => if c = .receive then s.arrive text else s.callSucceeded
    else s
  | .idle => s
  | .sequencing => s
  | .decoding => s

/-- NID: (R130, R138). -/
def execSerialNid (nid : NetId) (s : State) : Out := .next (s.takeCall (.setNetworkId nid))

/-- LST: (R132, R139). -/
def execSerialLst (s : State) : Out := .next (s.takeCall .receive)

/-- CMD: (R131, R140). -/
def execSerialCmd (bytes : List Byte) (s : State) : Out := .next (s.takeCall (.send bytes))

/-- SLP: (R133, R141). -/
def execSerialSlp (s : State) : Out := .next (s.takeCall .sleep)

/-- SERIAL.INCOMING: a line of hex text is the received frame; a line that is not is discarded without a trace and the
wait goes on (R142). -/
def execSerialIncoming (text : List Byte) (s : State) : Out :=
  .next (match hexDecode text with
    | .ok b => s.deliver b
    | .error _ => s)

/-- LISTEN (R132, R144). -/
def execBrokerListen (s : State) : Out := .next (s.takeCall .receive)

/-- SLEEP (R133, R145). -/
def execBrokerSleep (s : State) : Out := .next (s.takeCall .sleep)

/-- SET_NETWORK_ID (R130, R146). -/
def execBrokerSetNetworkId (nid : NetId) (s : State) : Out := .next (s.takeCall (.setNetworkId nid))

/-- SEND (R131, R147). -/
def execBrokerSend (bytes : List Byte) (s : State) : Out := .next (s.takeCall (.send bytes))

/-- BROKER.INCOMING: the field is the received frame, or the receive is answered `malformed` (R148). -/
def execBrokerIncoming (text : List Byte) (s : State) : Out :=
  .next (match hexDecode text with
    | .ok b => s.deliver b
    | .error _ => s.deliverMalformed)

end Sys2Proof.Machine
end

