-- ==== Sys2Proof/Machine/HostCommands.lean ====
section
/-! DEFINITION. The meanings of the HOSTCMD rows: the eleven host commands and the illegal codes (48_host_commands.md
R172 to R186). A codec command runs whole in one step (R172); a command that calls the transport starts here and ends
when the call is answered. -/

namespace Sys2Proof.Machine

/-- NOP (R173). -/
def execNop (s : State) : Out := .next (s.startCommand 0x00#8).succeed

/-- HEXDEC (R174). -/
def execHexdec (s : State) : Out :=
  .next (match hexDecode s.txtBytes with
    | .ok b => ((s.startCommand 0x01#8).setBuf b).succeed
    | .error r => (s.startCommand 0x01#8).endWith r)

/-- HEXENC (R175). -/
def execHexenc (s : State) : Out :=
  .next ((s.startCommand 0x02#8).setTxt (hexEncode s.cfg.hexUpper s.bufBytes)).succeed

/-- DECODE (R176). -/
def execDecode (s : State) : Out := .next ((s.startCommand 0x03#8).runCodec s.bufBytes)

/-- ENCODE (R177). -/
def execEncode (s : State) : Out :=
  .next (match encodeFrame s.fr s.payloadBytes with
    | .ok b => ((s.startCommand 0x04#8).setBuf b).succeed
    | .error r => (s.startCommand 0x04#8).endWith r)

/-- ASSOC_START: `NotIdle`, then `ConfigInvalid`, then the handshake, whose first act is the call of R152 (R178). -/
def execAssocStart (s : State) : Out :=
  .next (if s.assoc ≠ .idle then (s.startCommand codeAssocStart).endWith ⟨.notIdle, 0, (assocCode s.assoc).toNat⟩
    else if cfgWF s.cfg = false then (s.startCommand codeAssocStart).endWith ⟨.configInvalid, 0, 0⟩
    else (s.startCommand codeAssocStart).issue (.setNetworkId NetId.broadcast))

/-- ASSOC_RESET (R179). -/
def execAssocReset (s : State) : Out := .next (s.startCommand 0x06#8).returnToIdle.succeed

/-- T_SLEEP (R180). -/
def execTSleep (s : State) : Out := .next ((s.startCommand 0x07#8).issue .sleep)

/-- T_SET_NID: the first four bytes of `BUF`, or `LengthMismatch(4, BUF_LEN)` and no call (R181). -/
def execTSetNid (s : State) : Out :=
  .next (match netIdOf s.bufBytes with
    | some n => (s.startCommand 0x08#8).issue (.setNetworkId n)
    | none => (s.startCommand 0x08#8).endWith ⟨.lengthMismatch, 4, s.bufLen.toNat⟩)

/-- T_SEND: all of `BUF`, unchecked, or `LengthMismatch(1, 0)` and no call (R182). -/
def execTSend (s : State) : Out :=
  .next (if s.bufLen = 0#9 then (s.startCommand 0x09#8).endWith ⟨.lengthMismatch, 1, 0⟩
    else (s.startCommand 0x09#8).issue (.send s.bufBytes))

/-- T_RECEIVE (R183). -/
def execTReceive (s : State) : Out := .next ((s.startCommand 0x0A#8).issue .receive)

/-- HOSTCMD.ILLEGAL: `IllegalCommand(0, code)` and no other effect (R184, R197). -/
def execHostIllegal (code : Byte) (s : State) : Out :=
  .next ((s.startCommand code).endWith ⟨.illegalCommand, 0, code.toNat⟩)

end Sys2Proof.Machine
end

