-- ==== Sys2Proof/Machine/Dispatch.lean ====
section
/-! DEFINITION. exec: one arm per instruction of the opcode table, each a direct call of its meaning. -/

namespace Sys2Proof.Machine

def exec (i : Instr) (s : State) : Host.Outcome State Fault Refusal :=
  match i with
  | .boilerAssocBroadcast h payload => Sys2Proof.Machine.execBoilerAssocBroadcast h payload s
  | .boilerSetTempResponse h payload => Sys2Proof.Machine.execBoilerSetTempResponse h payload s
  | .boilerUnknown h payload => Sys2Proof.Machine.execBoilerUnknown h payload s
  | .probeInit h payload => Sys2Proof.Machine.execProbeInit h payload s
  | .probeAssocAnnounce h payload => Sys2Proof.Machine.execProbeAssocAnnounce h payload s
  | .probeTempReport h payload => Sys2Proof.Machine.execProbeTempReport h payload s
  | .probeUnknown h payload => Sys2Proof.Machine.execProbeUnknown h payload s
  | .satelliteTempReport a h payload => Sys2Proof.Machine.execSatelliteTempReport a h payload s
  | .satelliteUnknown a h payload => Sys2Proof.Machine.execSatelliteUnknown a h payload s
  | .frameIllegalSource m tail => Sys2Proof.Machine.execFrameIllegalSource m tail s
  | .frameIllegalLength bytes => Sys2Proof.Machine.execFrameIllegalLength bytes s
  | .frameHeader m part => Sys2Proof.Machine.execFrameHeader m part s
  | .flags f => Sys2Proof.Machine.execFlags f s
  | .serialNid nid => Sys2Proof.Machine.execSerialNid nid s
  | .serialLst => Sys2Proof.Machine.execSerialLst s
  | .serialCmd bytes => Sys2Proof.Machine.execSerialCmd bytes s
  | .serialSlp => Sys2Proof.Machine.execSerialSlp s
  | .serialIncoming text => Sys2Proof.Machine.execSerialIncoming text s
  | .brokerListen => Sys2Proof.Machine.execBrokerListen s
  | .brokerSleep => Sys2Proof.Machine.execBrokerSleep s
  | .brokerSetNetworkId nid => Sys2Proof.Machine.execBrokerSetNetworkId nid s
  | .brokerSend bytes => Sys2Proof.Machine.execBrokerSend bytes s
  | .brokerIncoming text => Sys2Proof.Machine.execBrokerIncoming text s
  | .nop => Sys2Proof.Machine.execNop s
  | .hexdec => Sys2Proof.Machine.execHexdec s
  | .hexenc => Sys2Proof.Machine.execHexenc s
  | .decode => Sys2Proof.Machine.execDecode s
  | .encode => Sys2Proof.Machine.execEncode s
  | .assocStart => Sys2Proof.Machine.execAssocStart s
  | .assocReset => Sys2Proof.Machine.execAssocReset s
  | .tSleep => Sys2Proof.Machine.execTSleep s
  | .tSetNid => Sys2Proof.Machine.execTSetNid s
  | .tSend => Sys2Proof.Machine.execTSend s
  | .tReceive => Sys2Proof.Machine.execTReceive s
  | .hostIllegal code => Sys2Proof.Machine.execHostIllegal code s

end Sys2Proof.Machine
end

