-- ==== Sys2Proof/Machine/HostPort.lean ====
section
/-! DEFINITION. The host's register port: the register map, `HostRead` and `HostWrite` (10_state.md R38, R39;
48_host_commands.md R171, R185). A write to `CMD` starts a command and is not handled here (Step.lean). -/

namespace Sys2Proof.Machine

/-- The registers of the map (R38). -/
inductive Reg where
  | cmd | status | result | errExpected | errActual | errState | consumed
  | assocState | retryCnt | bcRequestId | bcMsgType | bcRoa | bcFrom | bcNetId
  | frLength | frToAddr | frFromAddr | frRequestId | frReqOrAnswer | frMsgType | frPlen
  | family | variant | bufLen | txtLen
  | cfgDateMode | cfgHexUpper | cfgMaxRetry | cfgRetryDelay | cfgExtTemp | cfgExtTempOff | cfgLenSatTemp | cfgSatTempEn
  | tplAnnEn | tplAnnPlen | tplInitRequestId | tplInitRoa | tplInitMsgType | tplInitData0 | tplInitData1
  | tplTempEn | tplTempPlen | tplTempRequestId | tplTempRoa | tplTempMsgType
  | vBcPrefix | vNetId | vTemperature | vConsigne | vYear | vMonth | vDay | vDateValid | vInitData | vExtTemp
  | vFlags | vMode1 | vFrost | vMode2 | vOverride | vSun
  /-- an element of one of the five arrays, by its register number -/
  | element (a : Nat)
  deriving DecidableEq, Repr

/-- The numbers of the scalar registers (R38). -/
def scalarRegs : List (Nat × Reg) :=
  [(0x00, .cmd), (0x01, .status), (0x02, .result), (0x03, .errExpected), (0x04, .errActual), (0x05, .errState),
   (0x06, .consumed), (0x07, .assocState), (0x08, .retryCnt), (0x09, .bcRequestId), (0x0A, .bcMsgType),
   (0x0B, .bcRoa), (0x0C, .bcFrom), (0x0D, .bcNetId)] ++
  [(0x10, .frLength), (0x11, .frToAddr), (0x12, .frFromAddr), (0x13, .frRequestId), (0x14, .frReqOrAnswer),
   (0x15, .frMsgType), (0x16, .frPlen), (0x17, .family), (0x18, .variant), (0x20, .bufLen), (0x21, .txtLen)] ++
  [(0x30, .cfgDateMode), (0x31, .cfgHexUpper), (0x32, .cfgMaxRetry), (0x33, .cfgRetryDelay), (0x34, .cfgExtTemp),
   (0x35, .cfgExtTempOff), (0x36, .cfgLenSatTemp), (0x37, .cfgSatTempEn), (0x40, .tplAnnEn), (0x41, .tplAnnPlen),
   (0x42, .tplInitRequestId), (0x43, .tplInitRoa), (0x44, .tplInitMsgType), (0x45, .tplInitData0),
   (0x46, .tplInitData1), (0x47, .tplTempEn), (0x48, .tplTempPlen), (0x49, .tplTempRequestId), (0x4A, .tplTempRoa),
   (0x4B, .tplTempMsgType)] ++
  [(0x50, .vBcPrefix), (0x51, .vNetId), (0x52, .vTemperature), (0x53, .vConsigne), (0x54, .vYear), (0x55, .vMonth),
   (0x56, .vDay), (0x57, .vDateValid), (0x58, .vInitData), (0x59, .vExtTemp), (0x5A, .vFlags), (0x5B, .vMode1),
   (0x5C, .vFrost), (0x5D, .vMode2), (0x5E, .vOverride), (0x5F, .vSun)]

/-- The entry of a number in a register list. -/
def findReg : List (Nat × Reg) → Nat → Option Reg
  | [], _ => none
  | e :: l, n => if e.1 = n then some e.2 else findReg l n

/-- The register of a number; `none` for a reserved number (R38). -/
def regOf (n : Nat) : Option Reg := if inArray n then some (.element n) else findReg scalarRegs n

/-- What a read finds: a value, or an unspecified value of the register's width (R21, U5, U6, U7). -/
inductive Reading where
  | value (v : PortWord)
  | unspecified (width : Nat)
  deriving DecidableEq, Repr

/-- A register value zero-extended to the port word (R39). -/
def readingOf {w : Nat} (v : BitVec w) : Reading := .value (v.setWidth 32)

/-- A 1-bit register at the port. -/
def readingOfBit (b : Bool) : Reading := .value (BitVec.ofNat 32 b.toNat)

/-- A view at the port: unspecified where it has no value (R21, U6). -/
def readingOfView {w : Nat} (v : Option (BitVec w)) : Reading :=
  match v with
  | some x => readingOf x
  | none => .unspecified w

/-- A 1-bit view at the port. -/
def readingOfBitView (v : Option Bool) : Reading :=
  match v with
  | some b => readingOfBit b
  | none => .unspecified 1

/-- Four bytes in a port word, the first one most significant, as the spec writes them side by side (R11;
DEDUCED, log entry 8). -/
def netIdWord (n : NetId) : PortWord :=
  BitVec.ofNat 32 (((n.b0.toNat * 256 + n.b1.toNat) * 256 + n.b2.toNat) * 256 + n.b3.toNat)

/-- The number of valid elements of the array an element lies in, and the array's first register number (R45). -/
def State.arrayBounds (s : State) (a : Nat) : Nat × Nat :=
  if a < bufBase then (payloadBase, s.plen.toNat)
  else if a < txtBase then (bufBase, s.bufLen.toNat)
  else if a < annBase then (txtBase, s.txtLen.toNat)
  else if a < tempBase then (annBase, s.cfg.annPlen.toNat)
  else (tempBase, s.cfg.tempPlen.toNat)

/-- An array element at the port: its byte below the array's length register, unspecified at or beyond it (U7). -/
def State.elementReading (s : State) (a : Nat) : Reading :=
  if a < (s.arrayBounds a).1 + (s.arrayBounds a).2 then readingOf (s.byteAt a) else .unspecified 8

/-- The value of every register (R38); `CMD` reads as 0 (R27). -/
def State.readReg (s : State) : Reg → Reading
  | .cmd => .value 0#32
  | .status => readingOf s.status
  | .result => readingOf s.result
  | .errExpected => readingOf s.errExpected
  | .errActual => readingOf s.errActual
  | .errState => readingOf s.errState
  | .consumed => readingOf s.consumed
  | .assocState => readingOf (assocCode s.assoc)
  | .retryCnt => readingOf s.retryCnt
  | .bcRequestId => readingOf s.bcRequestId
  | .bcMsgType => readingOf s.bcMsgType
  | .bcRoa => readingOf s.bcRoa
  | .bcFrom => readingOf s.bcFrom
  | .bcNetId => .value (netIdWord s.bcNetId)
  | .frLength => readingOf s.fr.length
  | .frToAddr => readingOf s.fr.toAddr
  | .frFromAddr => readingOf s.fr.fromAddr
  | .frRequestId => readingOf s.fr.requestId
  | .frReqOrAnswer => readingOf s.fr.reqOrAnswer
  | .frMsgType => readingOf s.fr.msgType
  | .frPlen => readingOf s.plen
  | .family => readingOf s.familyReg
  | .variant => readingOf s.variantReg
  | .bufLen => readingOf s.bufLen
  | .txtLen => readingOf s.txtLen
  | .cfgDateMode => readingOfBit s.cfg.dateBcd
  | .cfgHexUpper => readingOfBit s.cfg.hexUpper
  | .cfgMaxRetry => readingOf s.cfg.maxRetry
  | .cfgRetryDelay => readingOf s.cfg.retryDelay
  | .cfgExtTemp => readingOf s.cfg.extTemp
  | .cfgExtTempOff => readingOf s.cfg.extTempOff
  | .cfgLenSatTemp => readingOf s.cfg.lenSatTemp
  | .cfgSatTempEn => readingOfBit s.cfg.satTempEn
  | .tplAnnEn => readingOfBit s.cfg.annEn
  | .tplAnnPlen => readingOf s.cfg.annPlen
  | .tplInitRequestId => readingOf s.cfg.initRequestId
  | .tplInitRoa => readingOf s.cfg.initRoa
  | .tplInitMsgType => readingOf s.cfg.initMsgType
  | .tplInitData0 => readingOf s.cfg.initData0
  | .tplInitData1 => readingOf s.cfg.initData1
  | .tplTempEn => readingOfBit s.cfg.tempEn
  | .tplTempPlen => readingOf s.cfg.tempPlen
  | .tplTempRequestId => readingOf s.cfg.tempRequestId
  | .tplTempRoa => readingOf s.cfg.tempRoa
  | .tplTempMsgType => readingOf s.cfg.tempMsgType
  | .vBcPrefix => readingOfView s.vBcPrefix
  | .vNetId => readingOfView (s.vNetId.map netIdWord)
  | .vTemperature => readingOfView s.vTemperature
  | .vConsigne => readingOfView s.vConsigne
  | .vYear => readingOfView s.vYear
  | .vMonth => readingOfView s.vMonth
  | .vDay => readingOfView s.vDay
  | .vDateValid => readingOfBitView s.vDateValid
  | .vInitData => readingOfView (s.vInitData.map (fun d => be16 d.1 d.2))
  | .vExtTemp => readingOfView s.vExtTemp
  | .vFlags => readingOfView s.vFlags
  | .vMode1 => readingOfView (s.vFlagFields.map FlagFields.mode1)
  | .vFrost => readingOfBitView (s.vFlagFields.map FlagFields.frost)
  | .vMode2 => readingOfView (s.vFlagFields.map FlagFields.mode2)
  | .vOverride => readingOfBitView (s.vFlagFields.map FlagFields.override)
  | .vSun => readingOfBitView (s.vFlagFields.map FlagFields.sun)
  | .element a => s.elementReading a

/-- What a read of a register number finds; a reserved number reads 0 (R38). -/
def State.reading (s : State) (n : Nat) : Reading :=
  match regOf n with
  | some r => s.readReg r
  | none => .value 0#32

/-- `HostRead(number)`: the value goes to the host and nothing of the block changes (R171). An unspecified value is a
free value of the register's width, zero-extended (R39, U5, U6, U7). -/
def State.hostRead (s : State) (n : Nat) : State :=
  match s.reading n with
  | .value v => { s with portData := v }
  | .unspecified w =>
    { s with portData := ((Config.openWord s.draws).setWidth w).setWidth 32, draws := s.draws + 1 }

/-- Bit 0 of a port word, for a 1-bit register (R39). -/
def bitOf (v : PortWord) : Bool := v.getLsbD 0

/-- A write to a register: bits above its width are ignored, a read-only register ignores the write, `BUF_LEN` above 256
and `TXT_LEN` above 512 are not stored (R25, R26, R38, R39; DEDUCED,
log entry 9). -/
def State.writeReg (s : State) (r : Reg) (v : PortWord) : State :=
  match r with
  | .frLength => { s with fr := { s.fr with length := v.setWidth 8 } }
  | .frToAddr => { s with fr := { s.fr with toAddr := v.setWidth 8 } }
  | .frFromAddr => { s with fr := { s.fr with fromAddr := v.setWidth 8 } }
  | .frRequestId => { s with fr := { s.fr with requestId := v.setWidth 16 } }
  | .frReqOrAnswer => { s with fr := { s.fr with reqOrAnswer := v.setWidth 8 } }
  | .frMsgType => { s with fr := { s.fr with msgType := v.setWidth 8 } }
  | .frPlen => { s with plen := v.setWidth 8 }
  | .bufLen => if v.toNat ≤ bufSize then { s with bufLen := v.setWidth 9 } else s
  | .txtLen => if v.toNat ≤ txtSize then { s with txtLen := v.setWidth 10 } else s
  | .cfgDateMode => { s with cfg := { s.cfg with dateBcd := bitOf v } }
  | .cfgHexUpper => { s with cfg := { s.cfg with hexUpper := bitOf v } }
  | .cfgMaxRetry => { s with cfg := { s.cfg with maxRetry := v.setWidth 16 } }
  | .cfgRetryDelay => { s with cfg := { s.cfg with retryDelay := v } }
  | .cfgExtTemp => { s with cfg := { s.cfg with extTemp := v.setWidth 16 } }
  | .cfgExtTempOff => { s with cfg := { s.cfg with extTempOff := v.setWidth 8 } }
  | .cfgLenSatTemp => { s with cfg := { s.cfg with lenSatTemp := v.setWidth 8 } }
  | .cfgSatTempEn => { s with cfg := { s.cfg with satTempEn := bitOf v } }
  | .tplAnnEn => { s with cfg := { s.cfg with annEn := bitOf v } }
  | .tplAnnPlen => { s with cfg := { s.cfg with annPlen := v.setWidth 8 } }
  | .tplInitRequestId => { s with cfg := { s.cfg with initRequestId := v.setWidth 16 } }
  | .tplInitRoa => { s with cfg := { s.cfg with initRoa := v.setWidth 8 } }
  | .tplInitMsgType => { s with cfg := { s.cfg with initMsgType := v.setWidth 8 } }
  | .tplInitData0 => { s with cfg := { s.cfg with initData0 := v.setWidth 8 } }
  | .tplInitData1 => { s with cfg := { s.cfg with initData1 := v.setWidth 8 } }
  | .tplTempEn => { s with cfg := { s.cfg with tempEn := bitOf v } }
  | .tplTempPlen => { s with cfg := { s.cfg with tempPlen := v.setWidth 8 } }
  | .tplTempRequestId => { s with cfg := { s.cfg with tempRequestId := v.setWidth 16 } }
  | .tplTempRoa => { s with cfg := { s.cfg with tempRoa := v.setWidth 8 } }
  | .tplTempMsgType => { s with cfg := { s.cfg with tempMsgType := v.setWidth 8 } }
  | .element a => if inArray a then s.setByte a (v.setWidth 8) else s
  | .cmd | .status | .result | .errExpected | .errActual | .errState | .consumed => s
  | .assocState | .retryCnt | .bcRequestId | .bcMsgType | .bcRoa | .bcFrom | .bcNetId => s
  | .family | .variant => s
  | .vBcPrefix | .vNetId | .vTemperature | .vConsigne | .vYear | .vMonth | .vDay | .vDateValid | .vInitData => s
  | .vExtTemp | .vFlags | .vMode1 | .vFrost | .vMode2 | .vOverride | .vSun => s

/-- `HostWrite(number, value)` to a register other than `CMD`: ignored while BUSY (R185) and at a reserved number
(R38). -/
def State.hostWrite (s : State) (n : Nat) (v : PortWord) : State :=
  if s.busy then s
  else match regOf n with
    | some r => s.writeReg r v
    | none => s

end Sys2Proof.Machine
end

