-- ==== Sys2Proof/Machine/Fetch.lean ====
section
/-! DEFINITION. Where the next instruction comes from, in each format, and how a word of the opcode table is placed
there (00_scope.md R14, 10_state.md R22, 48_host_commands.md R172). FMCD has no program counter: an instruction is the
unit that the next act of the outside world, or the block's own turn, brings up (DESIGN CHOICE, log entries 10 and 12). -/

namespace Sys2Proof.Machine

/-- The next complete line of the incoming stream as a unit, where a receive waits for one (R142). -/
def State.fetchLine (s : State) : Option (Encoded × State) := s.lineDue.map (fun p => (.incomingLine p.1, p.2))

/-- The unit brought up by a turn: what the transport takes from the link, the bytes that await the codec, or the next
complete line of the incoming stream; with the state it leaves. -/
def State.fetchTurn (s : State) : Option (Encoded × State) :=
  match s.outbound with
  | w :: rest => some (.wire w, s.withOutbound rest)
  | [] => if s.activity = .decoding then some (.frame s.bufBytes, s) else s.fetchLine

/-- The unit brought up by a host write that is not ignored: a code written to `CMD`, or the byte written at the flag
byte's place. -/
def State.fetchWrite (s : State) (n : Nat) (v : PortWord) : Option (Encoded × State) :=
  if s.busy then none
  else if n = 0 then some (.hostCmd (v.setWidth 8), s)
  else if s.flagOffset.map (fun o => payloadBase + o) = some n then some (.flagByte (v.setWidth 8), s)
  else none

/-- The unit brought up by an answer to the receive the block waits for: on the serial link the first line that the
characters complete (R142), on the broker link the field (R148). -/
def State.fetchAnswer (s : State) (call : Nat) (a : Answer) : Option (Encoded × State) :=
  match a with
  | .err => none
  | .ok text =>
    if s.awaitsFrame = true ∧ call = s.issued then
      match s.link with
      | .serial => (s.arrive text).fetchLine
      | .broker => some (.incomingField text, s)
    else none

/-- The next instruction's unit, if the next act brings one up, and the state it is executed in: the script has moved
past that act. -/
def State.fetch (s : State) : Option (Encoded × State) :=
  match s.events with
  | [] => s.fetchTurn
  | .turn :: es => (s.withEvents es).fetchTurn
  | .hostWrite n v :: es => (s.withEvents es).fetchWrite n v
  | .hostRead _ :: _ => none
  | .answer n a :: es => (s.withEvents es).fetchAnswer n a
  | .reset :: _ => none

/-- A host command byte placed for the next step: the host's next act is its write to `CMD` and no command is running. -/
def State.placeHostCmd (s : State) (c : Byte) : State :=
  { s with
    status := mkStatus false (statusDone s.status) (statusErr s.status) (statusFatal s.status)
    events := .hostWrite 0 (c.setWidth 32) :: s.events }

/-- Bytes placed for the codec's next turn: a listening sequencer has received them into `BUF` (R153). -/
def State.placeFrame (s : State) (b : List Byte) : State :=
  { s.setBuf b with
    cmd := codeAssocStart
    status := statusStart s.status
    assoc := .awaitingBroadcast
    phase := 0#2
    activity := .decoding
    outbound := []
    events := .turn :: s.events }

/-- An item placed for the transport's next turn: it is the next one on the link. -/
def State.placeWire (s : State) (w : WireItem) : State :=
  { s with outbound := w :: s.outbound, events := .turn :: s.events }

/-- Incoming text placed for the next step: a `T_RECEIVE` waits for it on a link of the given kind (R142, R148, R183). -/
def State.placeArrival (s : State) (l : Link) (text : List Byte) : State :=
  { s with
    cmd := 0x0A#8
    status := statusStart s.status
    activity := .waiting .receive
    outbound := []
    incoming := []
    link := l
    events := .answer s.issued (.ok text) :: s.events }

/-- A flag byte placed for the next step: the host's next act writes it, at the flag byte's place (R121), and no command
is running. -/
def State.placeFlagByte (s : State) (x : Byte) : State :=
  { s with
    status := mkStatus false (statusDone s.status) (statusErr s.status) (statusFatal s.status)
    events := .hostWrite (payloadBase + s.flagOffset.getD 0) (x.setWidth 32) :: s.events }

/-- A unit placed where the next step fetches it. -/
def State.placeUnit (s : State) : Encoded → State
  | .hostCmd c => s.placeHostCmd c
  | .flagByte x => s.placeFlagByte x
  | .frame b => s.placeFrame b
  | .wire w => s.placeWire w
  | .incomingLine chars => s.placeArrival .serial chars
  | .incomingField text => s.placeArrival .broker text

end Sys2Proof.Machine
end

