-- ==== Sys2Proof/Machine/Turn.lean ====
section
/-! DEFINITION. The steps that execute no instruction of the table: the sequencer's own acts, register reads and writes,
acknowledgements, reset, and the steps that are not there (47_association_fsm.md R166, 48_host_commands.md R171,
70_reset_and_hazards.md R211, R212, R221; DESIGN CHOICE, log entries 12, 13, 22 and 23). -/

namespace Sys2Proof.Machine

/-- A turn with an instruction on neither the link nor the codec: the sequencer's act where one is due; while a call is
outstanding, or no command is running, the block has no step (R134, R212). -/
def State.ownTurn (s : State) : Out :=
  match s.activity with
  | .sequencing =>
    match s.sequencerAct with
    | some t => .next t
    | none => .fault .noSequencerStep
  | .decoding => .next s
  | .waiting _ => .fault .hang
  | .idle => .fault .quiescent

/-- A turn the script gives: where the block has no step, time passes and nothing changes. -/
def State.givenTurn (s : State) : Out :=
  match s.activity with
  | .sequencing => s.ownTurn
  | .decoding => .next s
  | .waiting _ => .next s
  | .idle => .next s

/-- One act that brings up no instruction. -/
def State.runEvent (s : State) : Out :=
  match s.events with
  | [] => s.ownTurn
  | .turn :: es => (s.withEvents es).givenTurn
  | .hostWrite n v :: es => .next ((s.withEvents es).hostWrite n v)
  | .hostRead n :: es => .next ((s.withEvents es).hostRead n)
  | .answer n a :: es => .next ((s.withEvents es).answered n a)
  | .reset :: es => .next ((s.withEvents es).assertReset)

/-- A unit that is no instruction: an item on the link that is no command is refused by name. The reader of the incoming
stream cuts it into lines (R142), so that no step brings up characters that are not one line; such a unit changes
nothing. -/
def State.undecodable (s : State) (e : DecodeError) : Out :=
  match e with
  | .notOneLine => .next s
  | .notACommandLine => .refused (.unknownWireItem .notACommandLine)
  | .notAnEnvelope => .refused (.unknownWireItem .notAnEnvelope)

end Sys2Proof.Machine
end

