-- ==== Sys2Proof/Machine/Step.lean ====
section
/-! DEFINITION. One step of the machine, and the placing of a word of the opcode table where the next step fetches. -/

namespace Sys2Proof.Machine

/-- One step: if the next act brings up an instruction, it is decoded under the configuration and executed; otherwise
the act itself is carried out. -/
def step (s : State) : Host.Outcome State Fault Refusal :=
  match s.fetch with
  | some (u, s1) =>
    match Sys2Proof.decode s1.cfg u with
    | .ok i => exec i s1
    | .error e => s1.undecodable e
  | none => s.runEvent

/-- The machine with a word of the opcode table as its very next instruction (DESIGN CHOICE, log entry 14). -/
def State.withFetchWord (s : State) (nbits w : Nat) : State := s.placeUnit (tableUnit nbits w)

end Sys2Proof.Machine
end

