-- ==== Sys2Proof/Laws/Codec.lean ====
section
/-! SUPPORT. The laws of the codec functions: hex text, byte order, the header codec, the frame dispatcher, the flag byte
and `STATUS` (40_hex_codec.md R90, 41_metadata_codec.md R96, 42_frame_dispatch.md R105, 44_probe_family.md R122). -/

namespace Sys2Proof.Machine

/-! ### Byte order -/

theorem loByte_toNat (v : Half) : (loByte v).toNat = v.toNat % 256 := by simp [loByte]

theorem hiByte_toNat (v : Half) : (hiByte v).toNat = v.toNat / 256 := by
  have h : v.toNat < 65536 := v.isLt
  simp [hiByte, Nat.shiftRight_eq_div_pow]; omega

theorem be16_toNat (a b : Byte) : (be16 a b).toNat = a.toNat * 256 + b.toNat := by
  have ha : a.toNat < 256 := a.isLt
  have hb : b.toNat < 256 := b.isLt
  simp [be16]; omega

theorem le16_toNat (a b : Byte) : (le16 a b).toNat = a.toNat + b.toNat * 256 := by
  have ha : a.toNat < 256 := a.isLt
  have hb : b.toNat < 256 := b.isLt
  simp [le16]; omega

@[simp] theorem be16_hi_lo (v : Half) : be16 (hiByte v) (loByte v) = v := by
  apply BitVec.eq_of_toNat_eq; rw [be16_toNat, hiByte_toNat, loByte_toNat]; omega

@[simp] theorem hiByte_be16 (a b : Byte) : hiByte (be16 a b) = a := by
  have hb : b.toNat < 256 := b.isLt
  apply BitVec.eq_of_toNat_eq; rw [hiByte_toNat, be16_toNat]; omega

@[simp] theorem loByte_be16 (a b : Byte) : loByte (be16 a b) = b := by
  have hb : b.toNat < 256 := b.isLt
  apply BitVec.eq_of_toNat_eq; rw [loByte_toNat, be16_toNat]; omega

/-- `BE16` puts the first byte in the more significant half (R11). -/
theorem be16_eq_append (a b : Byte) : be16 a b = a ++ b := by
  apply BitVec.eq_of_toNat_eq
  have h : a.toNat * 2 ^ 8 ||| b.toNat = a.toNat * 2 ^ 8 + b.toNat := by
    rw [Nat.mul_comm]; exact (Nat.two_pow_add_eq_or_of_lt b.isLt _).symm
  rw [be16_toNat, BitVec.toNat_append, Nat.shiftLeft_eq]
  omega

/-- `LE16` puts the first byte in the less significant half (R11). -/
theorem le16_eq_append (a b : Byte) : le16 a b = b ++ a := by
  rw [← be16_eq_append]
  apply BitVec.eq_of_toNat_eq; rw [le16_toNat, be16_toNat]; omega

/-! ### Hex text -/

theorem hexVal_hexChar (n : Nat) (u : Bool) (h : n < 16) : hexVal (hexChar n u) = some n := by
  interval_cases n <;> cases u <;> rfl

@[simp] theorem hexEncode_length (u : Bool) (b : List Byte) : (hexEncode u b).length = 2 * b.length := by
  induction b with
  | nil => rfl
  | cons x xs ih => simp [hexEncode, ih]; omega

theorem firstBadChar_hexEncode (u : Bool) (b : List Byte) (i : Nat) : firstBadChar (hexEncode u b) i = none := by
  induction b generalizing i with
  | nil => rfl
  | cons x xs ih =>
    have hx : x.toNat < 256 := x.isLt
    simp [hexEncode, firstBadChar, hexVal_hexChar _ _ (show x.toNat / 16 < 16 by omega),
      hexVal_hexChar _ _ (show x.toNat % 16 < 16 by omega), ih]

theorem hexPairs_hexEncode (u : Bool) (b : List Byte) : hexPairs (hexEncode u b) = b := by
  induction b with
  | nil => rfl
  | cons x xs ih =>
    have hx : x.toNat < 256 := x.isLt
    simp only [hexEncode, hexPairs, hexVal_hexChar _ _ (show x.toNat / 16 < 16 by omega),
      hexVal_hexChar _ _ (show x.toNat % 16 < 16 by omega), ih, Option.getD_some]
    congr 1
    apply BitVec.eq_of_toNat_eq
    simp; omega

/-- What `HexEncode` writes, `HexDecode` reads. -/
@[simp] theorem hexDecode_hexEncode (u : Bool) (b : List Byte) : hexDecode (hexEncode u b) = .ok b := by
  simp [hexDecode, firstBadChar_hexEncode, hexPairs_hexEncode]

theorem hexPairs_length (t : List Byte) : (hexPairs t).length = t.length / 2 := by
  fun_induction hexPairs t with
  | case1 c0 c1 t ih => simp [ih]; omega
  | case2 t h =>
    match t, h with
    | [], _ => rfl
    | [_], _ => simp
    | a :: b :: t, h => exact absurd rfl (h a b t)

/-- A decoded text is half as long. -/
theorem hexDecode_length (t b : List Byte) (h : hexDecode t = .ok b) : b.length = t.length / 2 := by
  unfold hexDecode at h
  split at h
  · cases h
  · split at h
    · cases h
    · cases h; exact hexPairs_length t

/-! ### Header and frame -/

@[simp] theorem metaEncode_length (m : Metadata) : (metaEncode m).length = 7 := rfl

/-- `MetaDecode(MetaEncode(m) ‖ rest) = m`. -/
@[simp] theorem metaDecode_metaEncode (m : Metadata) (rest : List Byte) : metaDecode (metaEncode m ++ rest) = .ok m := by
  simp [metaEncode, metaDecode]

@[simp] theorem drop_metaEncode (m : Metadata) (rest : List Byte) : (metaEncode m ++ rest).drop 7 = rest := by
  simp [metaEncode]

/-- What a decoded header says of the bytes it was read from. -/
theorem metaDecode_ok (b : List Byte) (m : Metadata) (h : metaDecode b = .ok m) :
    7 ≤ b.length ∧ b = metaEncode m ++ b.drop 7 := by
  unfold metaDecode at h
  split at h
  · cases h; simp [metaEncode]
  · cases h

/-- Everything a successful `DecodeFrame` says. -/
theorem decodeFrame_ok (b : List Byte) (f : Frame) (n : Nat) (h : decodeFrame b = .ok (f, n)) :
    6 ≤ f.head.length.toNat ∧ familyOf f.head.fromAddr ≠ none ∧ f.head.length.toNat + 1 ≤ b.length ∧
      f.payload = (b.drop 7).take (f.head.length.toNat - 6) ∧ f.payload.length = f.head.length.toNat - 6 ∧
      n = f.head.length.toNat + 1 ∧ b = metaEncode f.head ++ b.drop 7 := by
  unfold decodeFrame at h
  split at h
  · cases h
  · rename_i m hm
    obtain ⟨h7, hb⟩ := metaDecode_ok b m hm
    split at h
    · cases h
    · split at h
      · cases h
      · split at h
        · cases h
        · cases h
          dsimp only
          refine ⟨by omega, ‹_›, by omega, rfl, ?_, rfl, hb⟩
          rw [List.length_take, List.length_drop]; omega

/-- Everything a successful `EncodeFrame` says. -/
theorem encodeFrame_ok (m : Metadata) (p b : List Byte) (h : encodeFrame m p = .ok b) :
    familyOf m.fromAddr ≠ none ∧ m.length.toNat = 6 + p.length ∧ b = metaEncode m ++ p := by
  unfold encodeFrame at h
  split at h
  · cases h
  · split at h
    · cases h
    · cases h; exact ⟨‹_›, by omega, rfl⟩

theorem lengthByte_toNat (p : List Byte) (h : p.length ≤ 249) : (lengthByte p).toNat = 6 + p.length := by
  simp [lengthByte]; omega

@[simp] theorem satAddrOf_satByte (a : SatAddr) : satAddrOf (satByte a) = a := by cases a <;> rfl

@[simp] theorem familyOf_satByte (a : SatAddr) : familyOf (satByte a) = some .satellite := by cases a <;> rfl

@[simp] theorem familyOf_probe : familyOf 0x20#8 = some .probe := rfl

@[simp] theorem familyOf_boiler : familyOf 0x80#8 = some .boiler := rfl

theorem familyOf_eq_boiler (a : Byte) (h : familyOf a = some .boiler) : a = 0x80#8 := by
  unfold familyOf at h
  split at h
  · cases h
  · split at h
    · cases h
    · split at h
      · assumption
      · cases h

/-! ### Lines of the incoming stream -/

/-- The first line end of a stream is found after any characters that hold none (R142). -/
theorem splitLine_append (t rest : List Byte) (h : splitLine t = none) :
    splitLine (t ++ (charCR :: charLF :: rest)) = some (t, rest) := by
  fun_induction splitLine t with
  | case1 a b t hab => simp at h
  | case2 a b t hab line rest hs ih => simp at h
  | case3 a b t hab hs ih =>
    have := ih hs
    simp only [List.cons_append] at this ⊢
    rw [splitLine, if_neg hab, this]
  | case4 t ht =>
    match t, ht with
    | [], _ => rfl
    | [a], _ => simp [splitLine, charCR, charLF]
    | a :: b :: t, ht => exact absurd rfl (ht a b t)

/-- A line that is split off is followed by CR LF and the rest, and holds no line end itself (R142). -/
theorem splitLine_eq_some (l t rest : List Byte) (h : splitLine l = some (t, rest)) :
    l = t ++ (charCR :: charLF :: rest) ∧ splitLine t = none := by
  fun_induction splitLine l generalizing t with
  | case1 a b l hab => cases h; exact ⟨by simp [hab.1, hab.2], rfl⟩
  | case2 a b l hab line r hs ih =>
    cases h
    obtain ⟨h1, h2⟩ := ih line hs
    refine ⟨by simp [h1], ?_⟩
    match line, h1, h2 with
    | [], _, _ => rfl
    | c :: line, h1, h2 =>
      simp only [List.cons_append, List.cons.injEq] at h1
      rw [splitLine, if_neg (by rw [← h1.1]; exact hab), h2]
  | case3 a b l hab hs ih => cases h
  | case4 l hl => cases h

theorem splitLine_ne_none (p q : List Byte) : splitLine (p ++ (charCR :: charLF :: q)) ≠ none := by
  induction p with
  | nil => simp [splitLine]
  | cons c p ih =>
    obtain ⟨d, l, hd⟩ : ∃ d l, p ++ (charCR :: charLF :: q) = d :: l := by
      cases p with
      | nil => exact ⟨_, _, rfl⟩
      | cons e p => exact ⟨_, _, rfl⟩
    rw [hd] at ih
    rw [List.cons_append, hd, splitLine]
    split
    · simp
    · cases hs : splitLine (d :: l) with
      | none => exact absurd hs ih
      | some r => simp

/-- A stream holds no complete line exactly where CR LF does not occur in it (R142). -/
theorem splitLine_eq_none_iff (l : List Byte) : splitLine l = none ↔ ¬ [charCR, charLF] <:+: l := by
  constructor
  · rintro h ⟨p, q, rfl⟩
    exact splitLine_ne_none p q (by simpa using h)
  · intro h
    cases hs : splitLine l with
    | none => rfl
    | some p => exact absurd ⟨p.1, p.2, by simp [(splitLine_eq_some l p.1 p.2 hs).1]⟩ h

/-! ### Flags -/

/-- The flag fields of a packed tuple are the tuple. -/
@[simp] theorem unpack_pack (f : FlagFields) : unpackFlags (packFlags f) = f := by
  obtain ⟨m1, fr, m2, ov, su⟩ := f
  revert m1 m2
  cases fr <;> cases ov <;> cases su <;> decide

@[simp] theorem pack_unpack (x : Byte) : packFlags (unpackFlags x) = x := by revert x; decide

@[simp] theorem statusBusy_mk (b d e f : Bool) : statusBusy (mkStatus b d e f) = b := by
  cases b <;> cases d <;> cases e <;> cases f <;> rfl

@[simp] theorem statusDone_mk (b d e f : Bool) : statusDone (mkStatus b d e f) = d := by
  cases b <;> cases d <;> cases e <;> cases f <;> rfl

@[simp] theorem statusErr_mk (b d e f : Bool) : statusErr (mkStatus b d e f) = e := by
  cases b <;> cases d <;> cases e <;> cases f <;> rfl

@[simp] theorem statusFatal_mk (b d e f : Bool) : statusFatal (mkStatus b d e f) = f := by
  cases b <;> cases d <;> cases e <;> cases f <;> rfl

theorem mkStatus_lt (b d e f : Bool) : (mkStatus b d e f).toNat < 16 := by
  cases b <;> cases d <;> cases e <;> cases f <;> decide

theorem causeCode_le (c : Cause) : c.code.toNat ≤ 10 := by cases c <;> decide

theorem causeCode_ne_zero (c : Cause) : decide (c.code ≠ 0#8) = decide (c ≠ .ok) := by cases c <;> rfl

end Sys2Proof.Machine
end

