-- ==== Sys2Proof/Laws/PerInstr.lean ====
section
/-! SUPPORT. The family `RoundTrip`, instruction by instruction: what the encoder writes for a well-formed instruction,
the decoder reads as that instruction. -/

namespace Sys2Proof.Machine

/-! ### What the decoder's parts do with what the encoder writes -/

theorem afterStart_append (p l : List Byte) : afterStart p (p ++ l) = some l := by
  induction p with
  | nil => rfl
  | cons c p ih => simp [afterStart, ih]

theorem beforeLF_append (l : List Byte) : beforeLF (l ++ [charLF]) = some l := by simp [beforeLF]

theorem decodeNidText_hexEncode (u : Bool) (n : NetId) : decodeNidText (hexEncode u (netIdBytes n)) = some n := by
  simp [decodeNidText, netIdBytes]

theorem decodeSendText_hexEncode (u : Bool) (b : List Byte) (h : sendable b = true) :
    decodeSendText (hexEncode u b) = some b := by
  simp [decodeSendText, h]

/-- A complete frame is read as its row of the opcode map. -/
theorem decodeFrameInstr_frameOf (cfg : Cfg) (src : Byte) (fam : Family) (hd : FrameHead) (p : List Byte)
    (hf : familyOf src = some fam) (hp : p.length ≤ 249) :
    decodeFrameInstr cfg (frameBytes (frameOf src hd p)) = decodeVariant cfg fam (frameOf src hd p).head p := by
  have hl := lengthByte_toNat p hp
  simp only [decodeFrameInstr, frameBytes, frameOf, metaDecode_metaEncode, hf, drop_metaEncode, hl, List.length_append,
    metaEncode_length]
  rw [if_neg (by omega), if_neg (by omega), List.take_of_length_le (by omega)]

end Sys2Proof.Machine

namespace Sys2Proof.Laws.RoundTrip
open Sys2Proof.Machine

/-- Decoding the encoding of a well-formed instruction gives it back, under every configuration and in either letter
case. -/
def Statement (i : Instr) : Prop :=
  ∀ (cfg : Cfg) (upper : Bool), WellFormed cfg i = true → Sys2Proof.decode cfg (Sys2Proof.encode upper i) = .ok i

theorem payload_facts {cfg : Cfg} {fam : Family} {v : Variant} {p : List Byte} (h : payloadSelects cfg fam v p = true) :
    p.length ≤ 249 ∧ variantOf fam (lengthByte p) cfg = v := by
  simpa [payloadSelects] using h

theorem boilerAssocBroadcast (h : FrameHead) (p : List Byte) : Statement (.boilerAssocBroadcast h p) := by
  intro cfg u hw
  obtain ⟨hp, hv⟩ := payload_facts hw
  simp only [Sys2Proof.decode, Sys2Proof.encode, decodeFrameInstr_frameOf cfg _ _ h p familyOf_boiler hp]
  simp [decodeVariant, frameOf, hv, freeHead]

theorem boilerSetTempResponse (h : FrameHead) (p : List Byte) : Statement (.boilerSetTempResponse h p) := by
  intro cfg u hw
  obtain ⟨hp, hv⟩ := payload_facts hw
  simp only [Sys2Proof.decode, Sys2Proof.encode, decodeFrameInstr_frameOf cfg _ _ h p familyOf_boiler hp]
  simp [decodeVariant, frameOf, hv, freeHead]

theorem boilerUnknown (h : FrameHead) (p : List Byte) : Statement (.boilerUnknown h p) := by
  intro cfg u hw
  obtain ⟨hp, hv⟩ := payload_facts hw
  simp only [Sys2Proof.decode, Sys2Proof.encode, decodeFrameInstr_frameOf cfg _ _ h p familyOf_boiler hp]
  simp [decodeVariant, frameOf, hv, freeHead]

theorem probeInit (h : FrameHead) (p : List Byte) : Statement (.probeInit h p) := by
  intro cfg u hw
  obtain ⟨hp, hv⟩ := payload_facts hw
  simp only [Sys2Proof.decode, Sys2Proof.encode, decodeFrameInstr_frameOf cfg _ _ h p familyOf_probe hp]
  simp [decodeVariant, frameOf, hv, freeHead]

theorem probeAssocAnnounce (h : FrameHead) (p : List Byte) : Statement (.probeAssocAnnounce h p) := by
  intro cfg u hw
  obtain ⟨hp, hv⟩ := payload_facts hw
  simp only [Sys2Proof.decode, Sys2Proof.encode, decodeFrameInstr_frameOf cfg _ _ h p familyOf_probe hp]
  simp [decodeVariant, frameOf, hv, freeHead]

theorem probeTempReport (h : FrameHead) (p : List Byte) : Statement (.probeTempReport h p) := by
  intro cfg u hw
  obtain ⟨hp, hv⟩ := payload_facts hw
  simp only [Sys2Proof.decode, Sys2Proof.encode, decodeFrameInstr_frameOf cfg _ _ h p familyOf_probe hp]
  simp [decodeVariant, frameOf, hv, freeHead]

theorem probeUnknown (h : FrameHead) (p : List Byte) : Statement (.probeUnknown h p) := by
  intro cfg u hw
  obtain ⟨hp, hv⟩ := payload_facts hw
  simp only [Sys2Proof.decode, Sys2Proof.encode, decodeFrameInstr_frameOf cfg _ _ h p familyOf_probe hp]
  simp [decodeVariant, frameOf, hv, freeHead]

theorem satelliteTempReport (a : SatAddr) (h : FrameHead) (p : List Byte) : Statement (.satelliteTempReport a h p) := by
  intro cfg u hw
  obtain ⟨hp, hv⟩ := payload_facts hw
  simp only [Sys2Proof.decode, Sys2Proof.encode, decodeFrameInstr_frameOf cfg _ _ h p (familyOf_satByte a) hp]
  simp [decodeVariant, frameOf, hv, freeHead]

theorem satelliteUnknown (a : SatAddr) (h : FrameHead) (p : List Byte) : Statement (.satelliteUnknown a h p) := by
  intro cfg u hw
  obtain ⟨hp, hv⟩ := payload_facts hw
  simp only [Sys2Proof.decode, Sys2Proof.encode, decodeFrameInstr_frameOf cfg _ _ h p (familyOf_satByte a) hp]
  simp [decodeVariant, frameOf, hv, freeHead]

theorem frameIllegalSource (m : Metadata) (tail : List Byte) : Statement (.frameIllegalSource m tail) := by
  intro cfg u hw
  simp only [WellFormed, Bool.and_eq_true, decide_eq_true_eq] at hw
  simp [Sys2Proof.decode, Sys2Proof.encode, decodeFrameInstr, hw.2, show ¬ m.length.toNat < 6 by omega]

theorem frameIllegalLength (b : List Byte) : Statement (.frameIllegalLength b) := by
  intro cfg u hw
  simp only [Sys2Proof.decode, Sys2Proof.encode, decodeFrameInstr]
  split
  · rfl
  · rename_i m hm
    obtain ⟨h7, hb⟩ := metaDecode_ok b m hm
    rw [if_pos]
    simp only [WellFormed] at hw
    rw [hb] at hw
    simp only [metaEncode, List.cons_append, badLength, Bool.or_eq_true, decide_eq_true_eq, List.length_cons] at hw
    omega

theorem frameHeader (m : Metadata) (part : List Byte) : Statement (.frameHeader m part) := by
  intro cfg u hw
  simp only [WellFormed, Bool.and_eq_true, decide_eq_true_eq] at hw
  obtain ⟨⟨h6, hf⟩, hc⟩ := hw
  obtain ⟨fam, hfam⟩ := Option.ne_none_iff_exists'.mp hf
  simp only [Sys2Proof.decode, Sys2Proof.encode, decodeFrameInstr, metaDecode_metaEncode, hfam, drop_metaEncode,
    List.length_append, metaEncode_length]
  rw [if_neg (by omega), if_pos (by omega)]

theorem flags (f : FlagFields) : Statement (.flags f) := by
  intro cfg u _
  simp [Sys2Proof.decode, Sys2Proof.encode]

theorem serialNid (n : NetId) : Statement (.serialNid n) := by
  intro cfg u _
  have hb : beforeLF (serialLine u (.setNetworkId n)) = some (nidKeyword ++ hexEncode u (netIdBytes n)) := by
    rw [serialLine, ← List.append_assoc, beforeLF_append]
  have h1 : nidKeyword ++ hexEncode u (netIdBytes n) ≠ lstKeyword := by simp [nidKeyword, lstKeyword]
  have h2 : nidKeyword ++ hexEncode u (netIdBytes n) ≠ slpKeyword := by simp [nidKeyword, slpKeyword]
  simp only [Sys2Proof.decode, Sys2Proof.encode, decodeLine, hb, if_neg h1, if_neg h2, afterStart_append,
    decodeNidText_hexEncode]

theorem serialLst : Statement .serialLst := by intro cfg u _; rfl

theorem serialCmd (b : List Byte) : Statement (.serialCmd b) := by
  intro cfg u hw
  have hb : beforeLF (serialLine u (.send b)) = some (cmdKeyword ++ hexEncode u b) := by
    rw [serialLine, ← List.append_assoc, beforeLF_append]
  have h1 : cmdKeyword ++ hexEncode u b ≠ lstKeyword := by simp [cmdKeyword, lstKeyword]
  have h2 : cmdKeyword ++ hexEncode u b ≠ slpKeyword := by simp [cmdKeyword, slpKeyword]
  have h3 : afterStart nidKeyword (cmdKeyword ++ hexEncode u b) = none := rfl
  simp only [Sys2Proof.decode, Sys2Proof.encode, decodeLine, hb, if_neg h1, if_neg h2, h3, afterStart_append,
    decodeSendText_hexEncode u b hw]

theorem serialSlp : Statement .serialSlp := by intro cfg u _; rfl

theorem serialIncoming (t : List Byte) : Statement (.serialIncoming t) := by
  intro cfg u hw
  have h : splitLine t = none := by simpa [WellFormed] using hw
  simp only [Sys2Proof.decode, Sys2Proof.encode, splitLine_append t [] h]

theorem brokerListen : Statement .brokerListen := by intro cfg u _; rfl

theorem brokerSleep : Statement .brokerSleep := by intro cfg u _; rfl

theorem brokerSetNetworkId (n : NetId) : Statement (.brokerSetNetworkId n) := by
  intro cfg u _
  simp [Sys2Proof.decode, Sys2Proof.encode, brokerEnvelope, decodeEnvelope, decodeNidText_hexEncode]

theorem brokerSend (b : List Byte) : Statement (.brokerSend b) := by
  intro cfg u hw
  simp [Sys2Proof.decode, Sys2Proof.encode, brokerEnvelope, decodeEnvelope, decodeSendText_hexEncode u b hw]

theorem brokerIncoming (t : List Byte) : Statement (.brokerIncoming t) := by intro cfg u _; rfl

theorem nop : Statement .nop := by intro cfg u _; rfl

theorem hexdec : Statement .hexdec := by intro cfg u _; rfl

theorem hexenc : Statement .hexenc := by intro cfg u _; rfl

theorem decode : Statement .decode := by intro cfg u _; rfl

theorem encode : Statement .encode := by intro cfg u _; rfl

theorem assocStart : Statement .assocStart := by intro cfg u _; rfl

theorem assocReset : Statement .assocReset := by intro cfg u _; rfl

theorem tSleep : Statement .tSleep := by intro cfg u _; rfl

theorem tSetNid : Statement .tSetNid := by intro cfg u _; rfl

theorem tSend : Statement .tSend := by intro cfg u _; rfl

theorem tReceive : Statement .tReceive := by intro cfg u _; rfl

theorem hostIllegal (c : Byte) : Statement (.hostIllegal c) := by
  intro cfg u hw
  have h : 0x0B ≤ c.toNat := by simpa [WellFormed] using hw
  simp only [Sys2Proof.decode, Sys2Proof.encode, decodeHostCmd]
  split <;> first | rfl | omega

end Sys2Proof.Laws.RoundTrip
end

