-- ==== Sys2Proof/Safety.lean ====
section
/-! DEFINITION. What counts as a safe run: the fault state, the end of a command and of a handshake, the hang
(70_reset_and_hazards.md R221, R225, R226), and the invariant of the machine's states. -/

namespace Sys2Proof.Machine

/-- The fault state: `STATUS.FATAL = 1` (R192, R226). The block itself goes on. -/
def State.fatal (s : State) : Bool := statusFatal s.status

/-- A command is over (R225). -/
def State.commandOver (s : State) : Bool := statusDone s.status

/-- A handshake is over: `Paired` or `Failed` (R225). -/
def State.handshakeOver (s : State) : Bool := decide (s.assoc = .paired) || decide (s.assoc = .failed)

/-- A hang: a call the transport has taken is outstanding, no unread line answers it, and the outside world does nothing
more (R221). -/
def State.hung (s : State) : Prop :=
  (∃ c, s.activity = .waiting c) ∧ s.outbound = [] ∧ s.lineDue = none ∧ s.events = []

/-- Bits 7 to 4 of `STATUS` are 0, ERR equals `RESULT ≠ 0`, DONE is 0 while BUSY (R28). -/
def State.statusWf (s : State) : Bool :=
  decide (s.status.toNat < 16) && (statusErr s.status == decide (s.result ≠ 0#8)) && !(s.busy && s.commandOver)

/-- `PHASE` is 0 but in `AwaitingBroadcast` (0, 1) and `Confirming` (0, 1, 2) (R150). -/
def phaseLegal (a : AssocState) (p : BitVec 2) : Bool :=
  match a with
  | .awaitingBroadcast => decide (p.toNat ≤ 1)
  | .confirming => decide (p.toNat ≤ 2)
  | .idle | .announced | .networkSwitched | .initialized | .paired | .failed => decide (p = 0#2)

/-- A send call. -/
def isSend : Call → Bool
  | .send _ => true
  | .setNetworkId _ | .receive | .sleep => false

/-- The call of the step table's row for the present state and phase (R166). -/
def State.callDue (s : State) (c : Call) : Bool :=
  match s.assoc with
  | .idle => decide (c = .setNetworkId NetId.broadcast)
  | .awaitingBroadcast => if s.phase = 0#2 then decide (c = .receive) else isSend c
  | .announced => decide (c = .setNetworkId s.bcNetId)
  | .networkSwitched => isSend c
  | .confirming =>
    if s.phase = 1#2 then isSend c else decide (s.phase = 2#2) && decide (c = .receive)
  | .initialized | .paired | .failed => false

/-- The call of a pass-through command's code (R180 to R183). -/
def commandCall (cmd : Byte) : Call → Bool
  | .sleep => decide (cmd = 0x07#8)
  | .setNetworkId _ => decide (cmd = 0x08#8)
  | .send _ => decide (cmd = 0x09#8)
  | .receive => decide (cmd = 0x0A#8)

/-- No handshake is under way in this sequencer state. -/
def atRest (a : AssocState) : Bool := decide (a = .idle) || decide (a = .paired) || decide (a = .failed)

/-- A handshake runs, under a well-formed configuration (R37, R178). -/
def State.inHandshake (s : State) : Bool := s.busy && s.handshake && cfgWF s.cfg

/-- What the machine is doing agrees with `STATUS.BUSY`, `CMD`, `ASSOC_STATE` and `PHASE` (R28, R134, R150, R166). -/
def State.activityWf (s : State) : Bool :=
  match s.activity with
  | .idle => !s.busy && atRest s.assoc
  | .sequencing => s.inHandshake && !atRest s.assoc
  | .decoding =>
    s.inHandshake &&
      ((decide (s.assoc = .awaitingBroadcast) && decide (s.phase = 0#2)) ||
        (decide (s.assoc = .confirming) && decide (s.phase = 2#2)))
  | .waiting c =>
    if s.handshake then s.inHandshake && s.callDue c else s.busy && atRest s.assoc && commandCall s.cmd c

/-- The retry counter of a running handshake's confirm loop does not exceed the bound (R23). -/
def State.retryWf (s : State) : Bool :=
  !(s.busy && s.handshake && decide (s.assoc = .confirming)) || decide (s.retryCnt.toNat ≤ s.cfg.maxRetry.toNat)

/-- The invariant every step keeps. -/
structure State.Inv (s : State) : Prop where
  /-- the memory is in its canonical form -/
  memory : Memory.wf s.mem = true
  /-- R28 -/
  status : s.statusWf = true
  /-- "Codes 11 to 255 are never written to `RESULT`" (R187) -/
  result : s.result.toNat ≤ 10
  /-- R29 -/
  consumed : s.consumed.toNat ≤ 256
  /-- R25 -/
  bufLen : s.bufLen.toNat ≤ 256
  /-- R26 -/
  txtLen : s.txtLen.toNat ≤ 512
  /-- R150 -/
  phase : phaseLegal s.assoc s.phase = true
  /-- R28, R134, R166 -/
  activity : s.activityWf = true
  /-- R23 -/
  retry : s.retryWf = true
  /-- "necessarily 0x80" once a broadcast is latched (R154) -/
  bcFrom : s.bcFrom = 0#8 ∨ s.bcFrom = 0x80#8

/-! ### The words statements use for an end, a call and a frame condition -/

/-- A state after a command has ended: `CMD` as given, the five result registers as given, `STATUS` with DONE set, BUSY
clear, ERR equal to `RESULT ≠ 0` and FATAL as given, no command running, and everything else as it was (R28, R29,
R203). -/
def State.withEnd (s : State) (cmd result : Byte) (expected actual : Half) (errState : BitVec 3) (consumed : BitVec 9)
    (fatal : Bool) : State :=
  { s with
    cmd := cmd
    result := result
    errExpected := expected
    errActual := actual
    errState := errState
    consumed := consumed
    status := mkStatus false true (decide (result ≠ 0#8)) fatal
    activity := .idle }

/-- A state after a handshake has failed: the command ended with the given cause and counts, `ERR_STATE` the code of the
state it failed in, the sequencer in `Failed` (R162, R203). -/
def State.withFailed (s : State) (result : Byte) (expected actual : Half) (fatal : Bool) : State :=
  { s.withEnd s.cmd result expected actual (assocCode s.assoc) 0#9 fatal with assoc := .failed, phase := 0#2 }

/-- A state after a command has started and made a transport call: BUSY set, DONE clear, the call outstanding and its
text last on the link, everything else as it was (R134, R172). -/
def State.withCall (s : State) (cmd : Byte) (c : Call) : State :=
  { s with
    cmd := cmd
    status := mkStatus true false (statusErr s.status) (statusFatal s.status)
    activity := .waiting c
    issued := s.issued + 1
    outbound := s.outbound ++ [wireForm s.link s.cfg.hexUpper c] }

/-- A state after the running handshake has made a transport call. -/
def State.withOwnCall (s : State) (c : Call) : State :=
  { s with
    activity := .waiting c, issued := s.issued + 1, outbound := s.outbound ++ [wireForm s.link s.cfg.hexUpper c] }

/-- Every byte of memory outside `n` bytes from an address on is as it was. -/
def SameOutside (s t : State) (base n : Nat) : Prop :=
  ∀ a, a < base ∨ base + n ≤ a → Memory.read t.mem a = Memory.read s.mem a

/-- The outcome puts the frame into `FR` and ends the host's command with `CONSUMED = length + 1`: the header
registers, `FR.PLEN` and `PAYLOAD[0 .. FR.PLEN)` hold the frame, every other byte of memory and every other field is as
it was (R176). -/
def LoadsFrame (s : State) (o : Out) (f : Frame) : Prop :=
  ∃ t, o = .next t ∧
    t = { s.withEnd s.cmd 0#8 0#16 0#16 0#3 (BitVec.ofNat 9 (f.head.length.toNat + 1)) (statusFatal s.status) with
          fr := f.head, plen := f.head.length - 6#8, mem := t.mem } ∧
    t.payloadBytes = f.payload ∧ SameOutside s t payloadBase f.payload.length

/-- The outcome puts the frame into `FR` and the listening sequencer drops it: it listens on (R153). -/
def DropsFrame (s : State) (o : Out) (f : Frame) : Prop :=
  ∃ t, o = .next t ∧
    t = { s with fr := f.head, plen := f.head.length - 6#8, mem := t.mem, phase := 0#2, activity := .sequencing } ∧
    t.payloadBytes = f.payload ∧ SameOutside s t payloadBase f.payload.length

/-- The outcome puts the frame into `FR` and the sequencer accepts it as the association broadcast: the latches take its
header fields and payload bytes 1 to 4 (R153, R154). -/
def AcceptsBroadcast (s : State) (o : Out) (f : Frame) (nid : NetId) : Prop :=
  ∃ t, o = .next t ∧
    t = { s with
          fr := f.head, plen := f.head.length - 6#8, mem := t.mem, phase := 1#2, activity := .sequencing
          bcRequestId := f.head.requestId, bcMsgType := f.head.msgType, bcRoa := f.head.reqOrAnswer
          bcFrom := f.head.fromAddr, bcNetId := nid } ∧
    t.payloadBytes = f.payload ∧ SameOutside s t payloadBase f.payload.length

/-- The outcome puts the frame into `FR` and ends the handshake in `Paired` with `RESULT = 0` (R160). -/
def PairsOnFrame (s : State) (o : Out) (f : Frame) : Prop :=
  ∃ t, o = .next t ∧
    t = { s.withEnd s.cmd 0#8 0#16 0#16 0#3 0#9 (statusFatal s.status) with
          fr := f.head, plen := f.head.length - 6#8, mem := t.mem, assoc := .paired, phase := 0#2 } ∧
    t.payloadBytes = f.payload ∧ SameOutside s t payloadBase f.payload.length

/-- The outcome writes the bytes to `BUF` and `BUF_LEN`, makes the call `T.send` of them, and changes nothing else
(R151). -/
def SendsFromBuf (s : State) (o : Out) (bytes : List Byte) : Prop :=
  ∃ t, o = .next t ∧
    t = { s.withOwnCall (.send bytes) with mem := t.mem, bufLen := BitVec.ofNat 9 bytes.length } ∧
    t.bufBytes = bytes ∧ SameOutside s t bufBase bytes.length

/-- A hex character with a letter put in the case the bit selects; other characters as they are (R90). -/
def inCase (upper : Bool) (c : Byte) : Byte :=
  if upper then (if 0x61 ≤ c.toNat ∧ c.toNat ≤ 0x66 then BitVec.ofNat 8 (c.toNat - 0x20) else c)
  else (if 0x41 ≤ c.toNat ∧ c.toNat ≤ 0x46 then BitVec.ofNat 8 (c.toNat + 0x20) else c)

/-- The outcome writes received bytes, cut to 256, to `BUF` and `BUF_LEN` and changes nothing else but this: in a
handshake the codec is next (R151, R153, R158); in `T_RECEIVE` the command ends with `RESULT = 0` (R183). -/
def DeliversBytes (s : State) (o : Out) (b : List Byte) : Prop :=
  ∃ t, o = .next t ∧
    t = (if s.handshake then
          { s with mem := t.mem, bufLen := BitVec.ofNat 9 (b.take 256).length, activity := .decoding }
        else
          { s.withEnd s.cmd 0#8 0#16 0#16 0#3 0#9 (statusFatal s.status) with
            mem := t.mem, bufLen := BitVec.ofNat 9 (b.take 256).length }) ∧
    t.bufBytes = b.take 256 ∧ SameOutside s t bufBase (b.take 256).length

/-- The nine frame rows of the opcode map, each with the frame it stands for (R71). -/
def OnFrameRows (a : SatAddr) (h : FrameHead) (p : List Byte) (P : Instr → Frame → Prop) : Prop :=
  P (.boilerAssocBroadcast h p) (frameOf 0x80#8 h p) ∧
  P (.boilerSetTempResponse h p) (frameOf 0x80#8 h p) ∧
  P (.boilerUnknown h p) (frameOf 0x80#8 h p) ∧
  P (.probeInit h p) (frameOf 0x20#8 h p) ∧
  P (.probeAssocAnnounce h p) (frameOf 0x20#8 h p) ∧
  P (.probeTempReport h p) (frameOf 0x20#8 h p) ∧
  P (.probeUnknown h p) (frameOf 0x20#8 h p) ∧
  P (.satelliteTempReport a h p) (frameOf (satByte a) h p) ∧
  P (.satelliteUnknown a h p) (frameOf (satByte a) h p)

/-- What the next step does when the script has run out, and when the script gives the block a turn, with nothing on the
link: in the second case the script has moved past the turn. -/
def OnTurn (s : State) (P : State → Out → Prop) : Prop :=
  s.outbound = [] →
    (s.events = [] → P s (step s)) ∧ (∀ es, s.events = .turn :: es → P (s.withEvents es) (step s))

/-- `FR` selects the probe temperature report, in words of its own (R100, R120). -/
def HoldsProbeReport (s : State) : Prop :=
  s.fr.fromAddr = 0x20#8 ∧ s.fr.length ≠ 8#8 ∧ ¬ (s.cfg.annEn = true ∧ s.fr.length.toNat = 6 + s.cfg.annPlen.toNat) ∧
    s.cfg.tempEn = true ∧ s.fr.length.toNat = 6 + s.cfg.tempPlen.toNat

/-- `FR` selects the satellite temperature report, in words of its own (R100, R126). -/
def HoldsSatelliteReport (s : State) : Prop :=
  (s.fr.fromAddr = 0x08#8 ∨ s.fr.fromAddr = 0x09#8 ∨ s.fr.fromAddr = 0x0A#8) ∧ s.cfg.satTempEn = true ∧
    s.fr.length = s.cfg.lenSatTemp

/-- A register number reads as a view: its value, zero-extended, and an unspecified value of its width where it has none
(R21, R39, U6). -/
def ShowsView {w : Nat} (s : State) (n : Nat) (view : Option (BitVec w)) : Prop :=
  (∀ v, view = some v → s.reading n = .value (v.setWidth 32)) ∧ (view = none → s.reading n = .unspecified w)

/-- The register numbers of an array read as its elements: the byte below the length register, an unspecified byte at or
beyond it (R38, U7). -/
def ShowsArray (s : State) (base size len : Nat) : Prop :=
  ∀ i, i < size →
    (i < len → s.reading (base + i) = .value ((s.byteAt (base + i)).setWidth 32)) ∧
    (len ≤ i → s.reading (base + i) = .unspecified 8)

/-- The configuration condition of `ASSOC_START` in words of its own (R37). -/
def TemplatesReady (cfg : Cfg) : Prop :=
  (cfg.annEn = true ∧ cfg.annPlen.toNat ≤ 249) ∧ (cfg.tempEn = true ∧ cfg.tempPlen.toNat ≤ 249) ∧
    cfg.extTempOff.toNat + 2 ≤ cfg.tempPlen.toNat

/-- A state with the radio's identity hidden (R44 a). -/
def State.hideRadio (s : State) : State := { s with radioNetId := NetId.zero }

/-- Two outcomes that differ at most in the radio's identity. -/
def SameButRadio : Out → Out → Prop
  | .next t, .next u => t.hideRadio = u.hideRadio
  | .fault e, .fault f => e = f
  | .refused e, .refused f => e = f
  | _, _ => False

end Sys2Proof.Machine
end

