-- ==== Sys2Proof/Certificates/Slice0/Obligations.lean ====
section
/-! DEFINITION. The statements for the provers. Each docstring names the rules of spec/ a statement formalises. The words
`withEnd`, `LoadsFrame`, `SendsFromBuf` and their like are in Safety.lean. -/

open Sys2Proof Sys2Proof.Machine

/-! ### Decoding and encoding of instructions -/

/-- Every well-formed instruction, with every operand, is what its encoding decodes to (R71, R86, R137 to R148). -/
def Obligations.DecodeOfEncodeIsIdentity : Prop :=
  ∀ (cfg : Cfg) (upper : Bool) (i : Instr), WellFormed cfg i = true → Sys2Proof.decode cfg (Sys2Proof.encode upper i) = .ok i

/-- What the decoder reads is a well-formed instruction, whatever the unit. -/
def Obligations.DecodedInstructionsAreWellFormed : Prop :=
  ∀ (cfg : Cfg) (u : Encoded) (i : Instr), Sys2Proof.decode cfg u = .ok i → WellFormed cfg i = true

/-- A few units written out from the spec: scenario C, scenario B, the illegal source and the truncated example of R102,
the flag byte 0xBA of R121, the lines of R138 and R139, the code of R86. The character codes of the two lines are
PRESUMED, log entry 25. -/
def Obligations.SpecUnitsDecode : Prop :=
  Sys2Proof.decode Cfg.reset (.frame [0x08#8, 0x80#8, 0x20#8, 0x83#8, 0x00#8, 0x01#8, 0x43#8, 0x00#8, 0x00#8]) =
      .ok (.probeInit ⟨0x80#8, 0x8300#16, 0x01#8, 0x43#8⟩ [0x00#8, 0x00#8]) ∧
  Sys2Proof.decode Cfg.reset
      (.frame [0x0B#8, 0x00#8, 0x80#8, 0xD3#8, 0xC8#8, 0x02#8, 0x41#8, 0x04#8, 0x05#8, 0xD7#8, 0x19#8, 0x9E#8]) =
      .ok (.boilerAssocBroadcast ⟨0x00#8, 0xD3C8#16, 0x02#8, 0x41#8⟩ [0x04#8, 0x05#8, 0xD7#8, 0x19#8, 0x9E#8]) ∧
  Sys2Proof.decode Cfg.reset (.frame [0x08#8, 0x80#8, 0x55#8, 0x83#8, 0x00#8, 0x01#8, 0x43#8]) =
      .ok (.frameIllegalSource ⟨0x08#8, 0x80#8, 0x55#8, 0x8300#16, 0x01#8, 0x43#8⟩ []) ∧
  Sys2Proof.decode Cfg.reset (.frame [0x08#8, 0x80#8, 0x20#8, 0x83#8, 0x00#8, 0x01#8]) =
      .ok (.frameIllegalLength [0x08#8, 0x80#8, 0x20#8, 0x83#8, 0x00#8, 0x01#8]) ∧
  Sys2Proof.decode Cfg.reset (.flagByte 0xBA#8) = .ok (.flags ⟨5#3, true, 2#2, true, false⟩) ∧
  Sys2Proof.decode Cfg.reset
      (.wire (.line [0x4E#8, 0x49#8, 0x44#8, 0x3A#8, 0x20#8, 0x30#8, 0x35#8, 0x64#8, 0x37#8, 0x31#8, 0x39#8, 0x39#8,
        0x65#8, 0x0A#8])) = .ok (.serialNid ⟨0x05#8, 0xD7#8, 0x19#8, 0x9E#8⟩) ∧
  Sys2Proof.decode Cfg.reset (.wire (.line [0x4C#8, 0x53#8, 0x54#8, 0x3A#8, 0x0A#8])) = .ok .serialLst ∧
  Sys2Proof.decode Cfg.reset (.hostCmd 0x05#8) = .ok .assocStart

/-! ### The codec -/

/-- R87, R88: which texts are well-formed hex text, the value of a digit, the bytes of a text, and which failure is
reported. The character codes of the digits are PRESUMED, log entry 25. -/
def Obligations.HexDecodeOutcome : Prop :=
  (∀ n, n < 10 → hexVal (BitVec.ofNat 8 (0x30 + n)) = some n) ∧
  (∀ n, n < 6 → hexVal (BitVec.ofNat 8 (0x61 + n)) = some (10 + n) ∧ hexVal (BitVec.ofNat 8 (0x41 + n)) = some (10 + n)) ∧
  (∀ c : Byte, hexVal c ≠ none → (0x30 ≤ c.toNat ∧ c.toNat ≤ 0x39) ∨ (0x61 ≤ c.toNat ∧ c.toNat ≤ 0x66) ∨
    (0x41 ≤ c.toNat ∧ c.toNat ≤ 0x46)) ∧
  ∀ t : List Byte,
    (t.length % 2 = 1 → hexDecode t = .error ⟨.malformedHex, 0, t.length⟩) ∧
    (t.length % 2 = 0 → ∀ i (hi : i < t.length), hexVal t[i] = none →
      (∀ j (hj : j < i), hexVal (t[j]'(by omega)) ≠ none) → hexDecode t = .error ⟨.malformedHex, 0, i⟩) ∧
    (t.length % 2 = 0 → (∀ c ∈ t, hexVal c ≠ none) →
      ∃ b, hexDecode t = .ok b ∧ 2 * b.length = t.length ∧
        ∀ i v w, (t[2 * i]?).bind hexVal = some v → (t[2 * i + 1]?).bind hexVal = some w →
          b[i]? = some (BitVec.ofNat 8 (v * 16 + w)))

/-- R89: the characters of every byte. Their codes are PRESUMED, log entry 25. -/
def Obligations.HexEncodeCharacters : Prop :=
  ∀ (upper : Bool) (b : List Byte),
    (hexEncode upper b).length = 2 * b.length ∧
    ∀ i (hi : i < b.length),
      (hexEncode upper b)[2 * i]? = some (hexChar (b[i].toNat / 16) upper) ∧
      (hexEncode upper b)[2 * i + 1]? = some (hexChar (b[i].toNat % 16) upper) ∧
      ∀ n, n < 16 → hexChar n upper =
        BitVec.ofNat 8 (if n ≤ 9 then 0x30 + n else if upper then 0x41 + (n - 10) else 0x61 + (n - 10))

/-- R90: a well-formed text comes back from its bytes with every letter in the case that is selected. -/
def Obligations.HexTextRoundTrip : Prop :=
  ∀ (upper : Bool) (t b : List Byte), hexDecode t = .ok b → hexEncode upper b = t.map (inCase upper)

/-- R101, R102, R103: every outcome of `DecodeFrame`, in the order of its checks. -/
def Obligations.DecodeFrameOutcome : Prop :=
  (∀ b : List Byte, b.length < 7 → decodeFrame b = .error ⟨.malformedHeader, 7, b.length⟩) ∧
  ∀ (l t f r1 r0 q y : Byte) (rest : List Byte),
    decodeFrame (l :: t :: f :: r1 :: r0 :: q :: y :: rest) =
      if l.toNat < 6 then .error ⟨.malformedHeader, 6, l.toNat⟩
      else if f ≠ 0x08#8 ∧ f ≠ 0x09#8 ∧ f ≠ 0x0A#8 ∧ f ≠ 0x20#8 ∧ f ≠ 0x80#8 then .error ⟨.unknownSource, 0, f.toNat⟩
      else if rest.length + 6 < l.toNat then .error ⟨.truncatedPayload, l.toNat, rest.length + 6⟩
      else .ok (⟨⟨l, t, f, r1 ++ r0, q, y⟩, rest.take (l.toNat - 6)⟩, l.toNat + 1)

/-- R95, R104: every outcome of `EncodeFrame`. -/
def Obligations.EncodeFrameOutcome : Prop :=
  ∀ (m : Metadata) (p : List Byte),
    encodeFrame m p =
      if m.fromAddr ≠ 0x08#8 ∧ m.fromAddr ≠ 0x09#8 ∧ m.fromAddr ≠ 0x0A#8 ∧ m.fromAddr ≠ 0x20#8 ∧ m.fromAddr ≠ 0x80#8 then
        .error ⟨.unknownSource, 0, m.fromAddr.toNat⟩
      else if m.length.toNat ≠ 6 + p.length then .error ⟨.lengthMismatch, 6 + p.length, m.length.toNat⟩
      else .ok ([m.length, m.toAddr, m.fromAddr, m.requestId.extractLsb' 8 8, m.requestId.extractLsb' 0 8,
        m.reqOrAnswer, m.msgType] ++ p)

/-- R105, R106: the round trip of a frame in both directions. -/
def Obligations.FrameRoundTrip : Prop :=
  (∀ f : Frame, 6 ≤ f.head.length.toNat → f.payload.length = f.head.length.toNat - 6 → familyOf f.head.fromAddr ≠ none →
    ∃ b, encodeFrame f.head f.payload = .ok b ∧ b.length = f.head.length.toNat + 1 ∧
      decodeFrame b = .ok (f, f.head.length.toNat + 1)) ∧
  ∀ (b : List Byte) (f : Frame) (n : Nat), decodeFrame b = .ok (f, n) →
    encodeFrame f.head f.payload = .ok (b.take n)

/-- R76, R121, R122: the flag byte is the five fields side by side. -/
def Obligations.FlagByteFields : Prop :=
  (∀ f : FlagFields, packFlags f =
    (f.mode1 ++ BitVec.ofBool f.frost ++ f.mode2 ++ BitVec.ofBool f.override ++ BitVec.ofBool f.sun : BitVec 8)) ∧
  (∀ x : Byte, unpackFlags x =
    ⟨x.extractLsb' 5 3, x.getLsbD 4, x.extractLsb' 2 2, x.getLsbD 1, x.getLsbD 0⟩) ∧
  (∀ f : FlagFields, (packFlags f).toNat =
    f.mode1.toNat * 32 + f.frost.toNat * 16 + f.mode2.toNat * 4 + f.override.toNat * 2 + f.sun.toNat) ∧
  (∀ f : FlagFields, unpackFlags (packFlags f) = f) ∧ (∀ x : Byte, packFlags (unpackFlags x) = x) ∧
  packFlags ⟨0#3, true, 0#2, false, false⟩ = 0x10#8

/-- R18, R19, R99, R100: the registers `FAMILY` and `VARIANT` at the port. -/
def Obligations.FamilyAndVariantRegisters : Prop :=
  ∀ s : State,
    s.reading 0x17 = .value
      (if s.fr.fromAddr = 0x08#8 ∨ s.fr.fromAddr = 0x09#8 ∨ s.fr.fromAddr = 0x0A#8 then 0#32
       else if s.fr.fromAddr = 0x20#8 then 1#32
       else if s.fr.fromAddr = 0x80#8 then 2#32 else 3#32) ∧
    s.reading 0x18 = .value
      (if s.fr.fromAddr = 0x80#8 then
         (if s.fr.length = 11#8 then 1#32 else if s.fr.length = 49#8 then 2#32 else 0#32)
       else if s.fr.fromAddr = 0x20#8 then
         (if s.fr.length = 8#8 then 1#32
          else if s.cfg.annEn = true ∧ s.fr.length.toNat = 6 + s.cfg.annPlen.toNat then 2#32
          else if s.cfg.tempEn = true ∧ s.fr.length.toNat = 6 + s.cfg.tempPlen.toNat then 3#32 else 0#32)
       else if s.fr.fromAddr = 0x08#8 ∨ s.fr.fromAddr = 0x09#8 ∨ s.fr.fromAddr = 0x0A#8 then
         (if s.cfg.satTempEn = true ∧ s.fr.length = s.cfg.lenSatTemp then 1#32 else 0#32)
       else 0#32)

/-! ### Views -/

/-- R112: the two views of an association broadcast, and when they apply. -/
def Obligations.BroadcastViews : Prop :=
  ∀ s : State,
    (s.fr.fromAddr = 0x80#8 → s.fr.length = 11#8 → s.plen = 5#8 →
      s.vBcPrefix = some (s.byteAt 0x1000) ∧
      s.vNetId = some ⟨s.byteAt 0x1001, s.byteAt 0x1002, s.byteAt 0x1003, s.byteAt 0x1004⟩) ∧
    (¬ (s.fr.fromAddr = 0x80#8 ∧ s.fr.length = 11#8) → s.vBcPrefix = none ∧ s.vNetId = none)

/-- R113, R114: the views of a set-temperature response: the two little-endian patterns and the date bytes in either
mode; and (R21) that none of them has a value where another family or variant is selected. -/
def Obligations.SetTempViews : Prop :=
  ∀ s : State,
    (s.fr.fromAddr = 0x80#8 → s.fr.length = 49#8 → s.plen = 43#8 →
      s.vTemperature = some (s.byteAt 0x1003 ++ s.byteAt 0x1002) ∧
      s.vConsigne = some (s.byteAt 0x1011 ++ s.byteAt 0x1010) ∧
      (s.cfg.dateBcd = false →
        s.vYear = some (s.byteAt 0x1005) ∧ s.vMonth = some (s.byteAt 0x1006) ∧ s.vDay = some (s.byteAt 0x1007) ∧
          s.vDateValid = some true) ∧
      (s.cfg.dateBcd = true →
        (∀ hi lo : Nat, hi ≤ 9 → lo ≤ 9 →
          (s.byteAt 0x1005 = BitVec.ofNat 8 (16 * hi + lo) → s.vYear = some (BitVec.ofNat 8 (10 * hi + lo))) ∧
          (s.byteAt 0x1006 = BitVec.ofNat 8 (16 * hi + lo) → s.vMonth = some (BitVec.ofNat 8 (10 * hi + lo))) ∧
          (s.byteAt 0x1007 = BitVec.ofNat 8 (16 * hi + lo) → s.vDay = some (BitVec.ofNat 8 (10 * hi + lo)))) ∧
        (9 < (s.byteAt 0x1005).toNat / 16 ∨ 9 < (s.byteAt 0x1005).toNat % 16 → s.vYear = none) ∧
        (9 < (s.byteAt 0x1006).toNat / 16 ∨ 9 < (s.byteAt 0x1006).toNat % 16 → s.vMonth = none) ∧
        (9 < (s.byteAt 0x1007).toNat / 16 ∨ 9 < (s.byteAt 0x1007).toNat % 16 → s.vDay = none) ∧
        s.vDateValid = some (s.vYear.isSome && s.vMonth.isSome && s.vDay.isSome))) ∧
    (¬ (s.fr.fromAddr = 0x80#8 ∧ s.fr.length = 49#8) →
      s.vTemperature = none ∧ s.vConsigne = none ∧ s.vYear = none ∧ s.vMonth = none ∧ s.vDay = none ∧
        s.vDateValid = none)

/-- R118, R121, R123, R127: the views of the probe and satellite families, with the bounds of the configured ones; and
(R21) that none of them has a value where another family or variant is selected. -/
def Obligations.ProbeAndSatelliteViews : Prop :=
  ∀ s : State,
    (s.fr.fromAddr = 0x20#8 → s.fr.length = 8#8 → s.plen = 2#8 →
      s.vInitData = some (s.byteAt 0x1000, s.byteAt 0x1001)) ∧
    (¬ (s.fr.fromAddr = 0x20#8 ∧ s.fr.length = 8#8) → s.vInitData = none) ∧
    (HoldsProbeReport s → s.plen = s.cfg.tempPlen →
      (s.cfg.extTempOff.toNat + 2 ≤ s.plen.toNat →
        s.vExtTemp = some (s.byteAt (0x1000 + s.cfg.extTempOff.toNat + 1) ++ s.byteAt (0x1000 + s.cfg.extTempOff.toNat))) ∧
      (s.plen.toNat < s.cfg.extTempOff.toNat + 2 → s.vExtTemp = none) ∧
      (1 ≤ s.plen.toNat → s.vFlags = some (s.byteAt (0x1000 + (s.plen.toNat - 1)))) ∧
      (s.plen.toNat = 0 → s.vFlags = none)) ∧
    (¬ HoldsProbeReport s → s.vExtTemp = none) ∧
    (HoldsSatelliteReport s → s.plen.toNat + 6 = s.fr.length.toNat →
      (1 ≤ s.plen.toNat → s.vFlags = some (s.byteAt (0x1000 + (s.plen.toNat - 1)))) ∧
      (s.plen.toNat = 0 → s.vFlags = none)) ∧
    (¬ HoldsProbeReport s → ¬ HoldsSatelliteReport s → s.vFlags = none) ∧
    s.vFlagFields = s.vFlags.map (fun x =>
      ⟨x.extractLsb' 5 3, x.getLsbD 4, x.extractLsb' 2 2, x.getLsbD 1, x.getLsbD 0⟩)

/-! ### Host commands -/

/-- R173: `NOP` clears the result registers and changes nothing else. -/
def Obligations.NopClearsTheResults : Prop :=
  ∀ s : State, exec .nop s = .next (s.withEnd 0x00#8 0#8 0#16 0#16 0#3 0#9 (statusFatal s.status))

/-- R174: `HEXDEC`. -/
def Obligations.HexdecResult : Prop :=
  ∀ s : State, s.txtLen.toNat ≤ 512 →
    (∀ b, hexDecode s.txtBytes = .ok b →
      b.length ≤ 256 ∧
      ∃ t, exec .hexdec s = .next t ∧
        t = { s.withEnd 0x01#8 0#8 0#16 0#16 0#3 0#9 (statusFatal s.status) with
              mem := t.mem, bufLen := BitVec.ofNat 9 b.length } ∧
        t.bufBytes = b ∧ SameOutside s t bufBase b.length) ∧
    (∀ r, hexDecode s.txtBytes = .error r →
      r.cause = .malformedHex ∧
      exec .hexdec s = .next (s.withEnd 0x01#8 1#8 (BitVec.ofNat 16 r.expected) (BitVec.ofNat 16 r.actual) 0#3 0#9
        (statusFatal s.status)))

/-- R175: `HEXENC`. -/
def Obligations.HexencResult : Prop :=
  ∀ s : State, s.bufLen.toNat ≤ 256 →
    ∃ t, exec .hexenc s = .next t ∧
      t = { s.withEnd 0x02#8 0#8 0#16 0#16 0#3 0#9 (statusFatal s.status) with
            mem := t.mem, txtLen := BitVec.ofNat 10 (2 * s.bufLen.toNat) } ∧
      t.txtBytes = hexEncode s.cfg.hexUpper s.bufBytes ∧ SameOutside s t txtBase (2 * s.bufLen.toNat)

/-- R176: `DECODE`. -/
def Obligations.DecodeResult : Prop :=
  ∀ s : State,
    (∀ f n, decodeFrame s.bufBytes = .ok (f, n) →
      n = f.head.length.toNat + 1 ∧ LoadsFrame { s with cmd := 0x03#8 } (exec .decode s) f) ∧
    (∀ r, decodeFrame s.bufBytes = .error r →
      exec .decode s = .next (s.withEnd 0x03#8 r.cause.code (BitVec.ofNat 16 r.expected) (BitVec.ofNat 16 r.actual) 0#3
        0#9 (statusFatal s.status || decide (r.cause = .unknownSource))))

/-- R177: `ENCODE`; and after a successful `DECODE` it succeeds and gives the first `CONSUMED` bytes back. -/
def Obligations.EncodeResult : Prop :=
  (∀ s : State,
    (∀ b, encodeFrame s.fr s.payloadBytes = .ok b →
      b.length = s.fr.length.toNat + 1 ∧
      ∃ t, exec .encode s = .next t ∧
        t = { s.withEnd 0x04#8 0#8 0#16 0#16 0#3 0#9 (statusFatal s.status) with
              mem := t.mem, bufLen := BitVec.ofNat 9 b.length } ∧
        t.bufBytes = b ∧ SameOutside s t bufBase b.length) ∧
    (∀ r, encodeFrame s.fr s.payloadBytes = .error r →
      exec .encode s = .next (s.withEnd 0x04#8 r.cause.code (BitVec.ofNat 16 r.expected) (BitVec.ofNat 16 r.actual) 0#3
        0#9 (statusFatal s.status || decide (r.cause = .unknownSource))))) ∧
  ∀ (s t : State), exec .decode s = .next t → t.result = 0#8 →
    ∃ u, exec .encode t = .next u ∧ u.result = 0#8 ∧ u.bufBytes = s.bufBytes.take t.consumed.toNat

/-- R198, R199: the two entry checks of `ASSOC_START`, in their order, and nothing else changes. -/
def Obligations.AssocStartRefused : Prop :=
  ∀ s : State,
    (s.assoc ≠ .idle →
      exec .assocStart s = .next (s.withEnd 0x05#8 9#8 0#16 ((assocCode s.assoc).setWidth 16) 0#3 0#9 (statusFatal s.status))) ∧
    (s.assoc = .idle → ¬ TemplatesReady s.cfg →
      exec .assocStart s = .next (s.withEnd 0x05#8 10#8 0#16 0#16 0#3 0#9 (statusFatal s.status)))

/-- R179: `ASSOC_RESET`. -/
def Obligations.AssocResetReturnsToIdle : Prop :=
  ∀ s : State, exec .assocReset s = .next
    { s.withEnd 0x06#8 0#8 0#16 0#16 0#3 0#9 (statusFatal s.status) with
      assoc := .idle, phase := 0#2, retryCnt := 0#16, bcRequestId := 0#16, bcMsgType := 0#8, bcRoa := 0#8
      bcFrom := 0#8, bcNetId := ⟨0#8, 0#8, 0#8, 0#8⟩ }

/-- R152, R178, R180 to R183: an accepted `ASSOC_START` and each pass-through command make their own call with their own
argument and wait. -/
def Obligations.CommandsMakeTheirCall : Prop :=
  ∀ s : State,
    (s.assoc = .idle → TemplatesReady s.cfg →
      exec .assocStart s = .next (s.withCall 0x05#8 (.setNetworkId ⟨0xFF#8, 0xFF#8, 0xFF#8, 0xFF#8⟩))) ∧
    exec .tSleep s = .next (s.withCall 0x07#8 .sleep) ∧
    (4 ≤ s.bufLen.toNat → exec .tSetNid s = .next (s.withCall 0x08#8
      (.setNetworkId ⟨s.byteAt 0x1100, s.byteAt 0x1101, s.byteAt 0x1102, s.byteAt 0x1103⟩))) ∧
    (s.bufLen ≠ 0#9 → exec .tSend s = .next (s.withCall 0x09#8 (.send s.bufBytes))) ∧
    exec .tReceive s = .next (s.withCall 0x0A#8 .receive)

/-- R194: the three places that raise `LengthMismatch`. -/
def Obligations.LengthMismatchRaised : Prop :=
  ∀ s : State,
    (familyOf s.fr.fromAddr ≠ none → s.fr.length.toNat ≠ 6 + s.plen.toNat →
      exec .encode s = .next (s.withEnd 0x04#8 5#8 (6#16 + s.plen.setWidth 16) (s.fr.length.setWidth 16) 0#3 0#9
        (statusFatal s.status))) ∧
    (s.bufLen.toNat < 4 →
      exec .tSetNid s = .next (s.withEnd 0x08#8 5#8 4#16 (s.bufLen.setWidth 16) 0#3 0#9 (statusFatal s.status))) ∧
    (s.bufLen = 0#9 →
      exec .tSend s = .next (s.withEnd 0x09#8 5#8 1#16 0#16 0#3 0#9 (statusFatal s.status)))

/-- R184: an illegal code ends at once with `IllegalCommand(0, code)` and no other effect. -/
def Obligations.IllegalCommandHasNoOtherEffect : Prop :=
  ∀ (s : State) (c : Byte), 0x0B ≤ c.toNat →
    decodeHostCmd c = .hostIllegal c ∧
    exec (.hostIllegal c) s = .next (s.withEnd c 8#8 0#16 (c.setWidth 16) 0#3 0#9 (statusFatal s.status))

/-- R27, R39: `CMD` reads 0; a write that is not ignored starts the command of the code in bits 7 to 0 of the word, whatever
its other bits; the codes of R86. -/
def Obligations.WritingCmdStartsTheCommand : Prop :=
  ∀ (s : State) (v : PortWord) (c : Byte) (es : List Event),
    s.reading 0x00 = .value 0#32 ∧
    (s.busy = false → s.events = .hostWrite 0x00 v :: es →
      step s = exec (decodeHostCmd (v.setWidth 8)) (s.withEvents es)) ∧
    ((decodeHostCmd 0x00#8 = .nop ∧ decodeHostCmd 0x01#8 = .hexdec ∧ decodeHostCmd 0x02#8 = .hexenc ∧
      decodeHostCmd 0x03#8 = .decode ∧ decodeHostCmd 0x04#8 = .encode ∧ decodeHostCmd 0x05#8 = .assocStart) ∧
      decodeHostCmd 0x06#8 = .assocReset ∧ decodeHostCmd 0x07#8 = .tSleep ∧ decodeHostCmd 0x08#8 = .tSetNid ∧
      decodeHostCmd 0x09#8 = .tSend ∧ decodeHostCmd 0x0A#8 = .tReceive) ∧
    (0x0B ≤ c.toNat → decodeHostCmd c = .hostIllegal c)

/-! ### The host port -/

/-- R185: while BUSY every host write is ignored, and reset ends BUSY; R53, R171: in every state a host read is served, it
returns what the register number reads as, and it changes nothing of the block. An unspecified value lies within the
register's width (log entry 4). That a turn given while the block waits, with no unread line to answer it, changes nothing
is the model's choice, log entries 12 and 22. -/
def Obligations.BusyIgnoresTheHost : Prop :=
  ∀ (s : State) (es : List Event),
    (∀ n v, s.busy = true → s.events = .hostWrite n v :: es → step s = .next (s.withEvents es)) ∧
    (∀ n, s.events = .hostRead n :: es →
      ∃ t, step s = .next t ∧ t = { s with events := es, portData := t.portData, draws := t.draws } ∧
        (∀ v, s.reading n = .value v → t.portData = v ∧ t.draws = s.draws) ∧
        ∀ w, s.reading n = .unspecified w → t.portData.toNat < 2 ^ w ∧ t.draws = s.draws + 1) ∧
    (∀ c, s.activity = .waiting c → s.outbound = [] → s.lineDue = none → s.events = .turn :: es →
      step s = .next (s.withEvents es)) ∧
    (s.busy = true → s.events = .reset :: es → ∃ t, step s = .next t ∧ t.busy = false)

/-- R38, R39, U6, U7: what every register number reads as, in every state: a register its field, zero-extended; a view
its value, or an unspecified value of its width where it has none; an array element its byte below the array's length
register, and an unspecified byte at or beyond it. Which end of the port word the first byte of 0x0D, 0x51 and 0x58 takes
is the model's choice, log entry 8. -/
def Obligations.PortReadsTheRegisters : Prop :=
  ∀ s : State,
    (s.reading 0x01 = .value (s.status.setWidth 32) ∧ s.reading 0x02 = .value (s.result.setWidth 32) ∧
      s.reading 0x03 = .value (s.errExpected.setWidth 32) ∧ s.reading 0x04 = .value (s.errActual.setWidth 32) ∧
      s.reading 0x05 = .value (s.errState.setWidth 32) ∧ s.reading 0x06 = .value (s.consumed.setWidth 32)) ∧
    ((s.assoc = .idle → s.reading 0x07 = .value 0#32) ∧ (s.assoc = .awaitingBroadcast → s.reading 0x07 = .value 1#32) ∧
      (s.assoc = .announced → s.reading 0x07 = .value 2#32) ∧ (s.assoc = .networkSwitched → s.reading 0x07 = .value 3#32) ∧
      (s.assoc = .initialized → s.reading 0x07 = .value 4#32) ∧ (s.assoc = .confirming → s.reading 0x07 = .value 5#32) ∧
      (s.assoc = .paired → s.reading 0x07 = .value 6#32) ∧ (s.assoc = .failed → s.reading 0x07 = .value 7#32)) ∧
    (s.reading 0x08 = .value (s.retryCnt.setWidth 32) ∧ s.reading 0x09 = .value (s.bcRequestId.setWidth 32) ∧
      s.reading 0x0A = .value (s.bcMsgType.setWidth 32) ∧ s.reading 0x0B = .value (s.bcRoa.setWidth 32) ∧
      s.reading 0x0C = .value (s.bcFrom.setWidth 32) ∧
      s.reading 0x0D = .value (s.bcNetId.b0 ++ s.bcNetId.b1 ++ s.bcNetId.b2 ++ s.bcNetId.b3)) ∧
    (s.reading 0x10 = .value (s.fr.length.setWidth 32) ∧ s.reading 0x11 = .value (s.fr.toAddr.setWidth 32) ∧
      s.reading 0x12 = .value (s.fr.fromAddr.setWidth 32) ∧ s.reading 0x13 = .value (s.fr.requestId.setWidth 32) ∧
      s.reading 0x14 = .value (s.fr.reqOrAnswer.setWidth 32) ∧ s.reading 0x15 = .value (s.fr.msgType.setWidth 32) ∧
      s.reading 0x16 = .value (s.plen.setWidth 32) ∧ s.reading 0x20 = .value (s.bufLen.setWidth 32) ∧
      s.reading 0x21 = .value (s.txtLen.setWidth 32)) ∧
    (s.reading 0x30 = .value ((BitVec.ofBool s.cfg.dateBcd).setWidth 32) ∧
      s.reading 0x31 = .value ((BitVec.ofBool s.cfg.hexUpper).setWidth 32) ∧
      s.reading 0x32 = .value (s.cfg.maxRetry.setWidth 32) ∧ s.reading 0x33 = .value s.cfg.retryDelay ∧
      s.reading 0x34 = .value (s.cfg.extTemp.setWidth 32) ∧ s.reading 0x35 = .value (s.cfg.extTempOff.setWidth 32) ∧
      s.reading 0x36 = .value (s.cfg.lenSatTemp.setWidth 32) ∧
      s.reading 0x37 = .value ((BitVec.ofBool s.cfg.satTempEn).setWidth 32)) ∧
    (s.reading 0x40 = .value ((BitVec.ofBool s.cfg.annEn).setWidth 32) ∧
      s.reading 0x41 = .value (s.cfg.annPlen.setWidth 32) ∧ s.reading 0x42 = .value (s.cfg.initRequestId.setWidth 32) ∧
      s.reading 0x43 = .value (s.cfg.initRoa.setWidth 32) ∧ s.reading 0x44 = .value (s.cfg.initMsgType.setWidth 32) ∧
      s.reading 0x45 = .value (s.cfg.initData0.setWidth 32) ∧ s.reading 0x46 = .value (s.cfg.initData1.setWidth 32) ∧
      s.reading 0x47 = .value ((BitVec.ofBool s.cfg.tempEn).setWidth 32) ∧
      s.reading 0x48 = .value (s.cfg.tempPlen.setWidth 32) ∧ s.reading 0x49 = .value (s.cfg.tempRequestId.setWidth 32) ∧
      s.reading 0x4A = .value (s.cfg.tempRoa.setWidth 32) ∧ s.reading 0x4B = .value (s.cfg.tempMsgType.setWidth 32)) ∧
    (ShowsView s 0x50 s.vBcPrefix ∧ ShowsView s 0x51 (s.vNetId.map (fun n => n.b0 ++ n.b1 ++ n.b2 ++ n.b3)) ∧
      ShowsView s 0x52 s.vTemperature ∧ ShowsView s 0x53 s.vConsigne ∧ ShowsView s 0x54 s.vYear ∧
      ShowsView s 0x55 s.vMonth ∧ ShowsView s 0x56 s.vDay ∧ ShowsView s 0x57 (s.vDateValid.map BitVec.ofBool)) ∧
    (ShowsView s 0x58 (s.vInitData.map (fun d => d.1 ++ d.2)) ∧ ShowsView s 0x59 s.vExtTemp ∧
      ShowsView s 0x5A s.vFlags ∧ ShowsView s 0x5B (s.vFlagFields.map FlagFields.mode1) ∧
      ShowsView s 0x5C (s.vFlagFields.map (fun f => BitVec.ofBool f.frost)) ∧
      ShowsView s 0x5D (s.vFlagFields.map FlagFields.mode2) ∧
      ShowsView s 0x5E (s.vFlagFields.map (fun f => BitVec.ofBool f.override)) ∧
      ShowsView s 0x5F (s.vFlagFields.map (fun f => BitVec.ofBool f.sun))) ∧
    (ShowsArray s 0x1000 249 s.plen.toNat ∧ ShowsArray s 0x1100 256 s.bufLen.toNat ∧
      ShowsArray s 0x1200 512 s.txtLen.toNat ∧ ShowsArray s 0x1400 249 s.cfg.annPlen.toNat ∧
      ShowsArray s 0x1500 249 s.cfg.tempPlen.toNat)

/-- R134, R221: with a call outstanding that the transport has taken, no unread line that answers it, and nothing more from
the outside, there is no step; so with a finished run (R212, R225). That a step then answers a fault is the model's
choice, log entry 22. -/
def Obligations.HangAndQuiescence : Prop :=
  ∀ s : State, s.outbound = [] → s.events = [] →
    (∀ c, s.activity = .waiting c → s.lineDue = none → step s = .fault .hang) ∧
    (s.activity = .idle → step s = .fault .quiescent)

/-- R25, R26, R38, R39: a register reads back what the host has written, cut to its width, and no other writable scalar
register changes; `BUF_LEN` above 256 and `TXT_LEN` above 512 are not stored; an array element holds the byte written to
it. That the two limits are judged on the whole port word, so that 512 written to `BUF_LEN` is not stored as 0, is the
model's choice, log entry 9. -/
def Obligations.RegistersReadBack : Prop :=
  ∀ (s : State) (v : PortWord) (es : List Event), s.busy = false →
    (∀ n w, (n, w) ∈
        [(0x10, 8), (0x11, 8), (0x12, 8), (0x13, 16), (0x14, 8), (0x15, 8), (0x16, 8), (0x30, 1), (0x31, 1), (0x32, 16),
         (0x33, 32), (0x34, 16), (0x35, 8), (0x36, 8), (0x37, 1), (0x40, 1), (0x41, 8), (0x42, 16), (0x43, 8), (0x44, 8),
         (0x45, 8), (0x46, 8), (0x47, 1), (0x48, 8), (0x49, 16), (0x4A, 8), (0x4B, 8)] →
      s.events = .hostWrite n v :: es →
      ∃ t, step s = .next t ∧ t = { s with events := es, fr := t.fr, plen := t.plen, cfg := t.cfg } ∧
        t.reading n = .value (BitVec.ofNat 32 (v.toNat % 2 ^ w)) ∧
        ∀ m, (0x10 ≤ m ∧ m ≤ 0x16) ∨ (0x30 ≤ m ∧ m ≤ 0x37) ∨ (0x40 ≤ m ∧ m ≤ 0x4B) → m ≠ n → t.reading m = s.reading m) ∧
    (s.events = .hostWrite 0x20 v :: es →
      step s = .next { s with events := es, bufLen := if v.toNat ≤ 256 then v.setWidth 9 else s.bufLen }) ∧
    (s.events = .hostWrite 0x21 v :: es →
      step s = .next { s with events := es, txtLen := if v.toNat ≤ 512 then v.setWidth 10 else s.txtLen }) ∧
    (∀ n, inArray n = true → s.events = .hostWrite n v :: es →
      ∃ t, step s = .next t ∧ t = { s with events := es, mem := t.mem } ∧
        t.byteAt n = v.setWidth 8 ∧ SameOutside s t n 1)

/-- R38, R39: a reserved number reads 0; a write to it, or to a read-only register, is ignored. -/
def Obligations.ReservedAndReadOnlyNumbers : Prop :=
  ∀ (s : State) (n : Nat) (v : PortWord) (es : List Event),
    ((0x0D < n ∧ n < 0x10) ∨ (0x18 < n ∧ n < 0x20) ∨ (0x21 < n ∧ n < 0x30) ∨ (0x37 < n ∧ n < 0x40) ∨
      (0x4B < n ∧ n < 0x50) ∨ (0x5F < n ∧ n < 0x1000) ∨ (0x10F8 < n ∧ n < 0x1100) ∨ (0x14F8 < n ∧ n < 0x1500) ∨
      (0x15F8 < n) ∨ (0x13FF < n ∧ n < 0x1400) →
      s.reading n = .value 0#32 ∧ (s.events = .hostWrite n v :: es → step s = .next (s.withEvents es))) ∧
    ((0x01 ≤ n ∧ n ≤ 0x0D) ∨ n = 0x17 ∨ n = 0x18 ∨ (0x50 ≤ n ∧ n ≤ 0x5F) →
      s.events = .hostWrite n v :: es → step s = .next (s.withEvents es))

/-! ### Frames -/

/-- R101, R176: executing the instruction the decoder reads from a byte sequence is what the codec does with it. -/
def Obligations.FrameInstructionsRunTheCodec : Prop :=
  ∀ (s : State) (b : List Byte), exec (decodeFrameInstr s.cfg b) s = .next (s.runCodec b)

/-- R112, R113, R115, R118, R119, R120, R124, R126, R128, R176: outside a handshake each of the nine frame rows loads its
frame. That a frame row executed there is the end of the host's `DECODE` is the model's reading, log entry 26. -/
def Obligations.FrameRowsLoadTheFrame : Prop :=
  ∀ (s : State) (a : SatAddr) (h : FrameHead) (p : List Byte), s.activity ≠ .decoding → p.length ≤ 249 →
    OnFrameRows a h p (fun i f => LoadsFrame s (exec i s) f)

/-- R153, R154: a listening sequencer accepts the association broadcast and latches it. -/
def Obligations.ListeningAcceptsTheBroadcast : Prop :=
  ∀ (s : State) (h : FrameHead) (x n0 n1 n2 n3 : Byte), s.activity = .decoding → s.assoc = .awaitingBroadcast →
    AcceptsBroadcast s (exec (.boilerAssocBroadcast h [x, n0, n1, n2, n3]) s)
      ⟨⟨11#8, h.toAddr, 0x80#8, h.requestId, h.reqOrAnswer, h.msgType⟩, [x, n0, n1, n2, n3]⟩ ⟨n0, n1, n2, n3⟩

/-- R153: a listening sequencer drops every other frame, whatever its row, and listens on. -/
def Obligations.ListeningDropsOtherFrames : Prop :=
  ∀ (s : State) (a : SatAddr) (h : FrameHead) (p : List Byte), s.activity = .decoding → s.assoc = .awaitingBroadcast →
    OnFrameRows a h p (fun i f =>
      WellFormed s.cfg i = true → (∀ h' p', i ≠ .boilerAssocBroadcast h' p') → DropsFrame s (exec i s) f)

/-- R160: in the confirm loop any boiler frame ends the handshake in `Paired` with `RESULT = 0`, and (R158) any other
frame starts the next iteration. -/
def Obligations.ConfirmingEndsOnAnyBoilerFrame : Prop :=
  ∀ (s : State) (a : SatAddr) (h : FrameHead) (p : List Byte), s.activity = .decoding → s.assoc = .confirming →
    p.length ≤ 249 →
    OnFrameRows a h p (fun i f =>
      (f.head.fromAddr = 0x80#8 → PairsOnFrame s (exec i s) f) ∧ (f.head.fromAddr ≠ 0x80#8 → DropsFrame s (exec i s) f))

/-- R191, R192, R193: outside a handshake an illegal frame ends the command with its cause and counts, `FR` as it was;
`UnknownSource` sets FATAL. That a frame row executed there ends the host's command, and that FRAME.HEADER is the truncated
frame, is the model's reading, log entry 26. -/
def Obligations.IllegalFramesEndTheCommand : Prop :=
  ∀ s : State, s.activity ≠ .decoding →
    (∀ m tail, exec (.frameIllegalSource m tail) s =
      .next (s.withEnd s.cmd 3#8 0#16 (m.fromAddr.setWidth 16) 0#3 0#9 true)) ∧
    (∀ b : List Byte, b.length < 7 → exec (.frameIllegalLength b) s =
      .next (s.withEnd s.cmd 2#8 7#16 (BitVec.ofNat 16 b.length) 0#3 0#9 (statusFatal s.status))) ∧
    (∀ l rest, 6 ≤ rest.length → exec (.frameIllegalLength (l :: rest)) s =
      .next (s.withEnd s.cmd 2#8 6#16 (l.setWidth 16) 0#3 0#9 (statusFatal s.status))) ∧
    (∀ m part, exec (.frameHeader m part) s =
      .next (s.withEnd s.cmd 4#8 (m.length.setWidth 16) (BitVec.ofNat 16 (6 + part.length)) 0#3 0#9
        (statusFatal s.status)))

/-- R163: a frame that does not decode fails the running handshake with its cause; `UnknownSource` also sets FATAL. That
FRAME.HEADER is the truncated frame is the model's reading, log entry 26. -/
def Obligations.DecodeFailureFailsTheHandshake : Prop :=
  ∀ s : State,
    (s.activity = .decoding →
      (∀ m tail, exec (.frameIllegalSource m tail) s = .next (s.withFailed 3#8 0#16 (m.fromAddr.setWidth 16) true)) ∧
      (∀ b : List Byte, b.length < 7 → exec (.frameIllegalLength b) s =
        .next (s.withFailed 2#8 7#16 (BitVec.ofNat 16 b.length) (statusFatal s.status))) ∧
      (∀ l rest, 6 ≤ rest.length → exec (.frameIllegalLength (l :: rest)) s =
        .next (s.withFailed 2#8 6#16 (l.setWidth 16) (statusFatal s.status))) ∧
      (∀ m part, exec (.frameHeader m part) s =
        .next (s.withFailed 4#8 (m.length.setWidth 16) (BitVec.ofNat 16 (6 + part.length)) (statusFatal s.status)))) ∧
    (s.awaitsFrame = true → s.cmd = 0x05#8 → ∀ text r, hexDecode text = .error r →
      exec (.brokerIncoming text) s = .next (s.withFailed 1#8 0#16 0#16 (statusFatal s.status)))

/-- R76, R121, R122: the flag byte of a temperature report in `FR` is its last payload byte; writing it changes that byte
alone. Where there is none, nothing changes (the model's choice, log entry 11). -/
def Obligations.FlagsWritesTheLastPayloadByte : Prop :=
  ∀ (s : State) (f : FlagFields),
    (s.selectsTempReport = true → 1 ≤ s.plen.toNat → s.plen.toNat ≤ 249 →
      ∃ t, exec (.flags f) s = .next t ∧ t = { s with mem := t.mem } ∧
        t.vFlags = some (f.mode1 ++ BitVec.ofBool f.frost ++ f.mode2 ++ BitVec.ofBool f.override ++ BitVec.ofBool f.sun) ∧
        t.vFlagFields = some f ∧ SameOutside s t (payloadBase + (s.plen.toNat - 1)) 1) ∧
    (s.selectsTempReport = false ∨ s.plen.toNat = 0 ∨ 249 < s.plen.toNat → exec (.flags f) s = .next s)

/-! ### Transport -/

/-- R130 to R133, R138 to R141, R144 to R147: each outgoing row, serial or broker, gives the radio module the effect the
spec states for its call, and nothing of the block changes. A sleeping radio's standby state is left open (R209; the
model's choice, log entry 5). That the radio changes when the transport takes the item, before the answer, is the model's
choice, log entry 24. -/
def Obligations.OutgoingRowsReachTheRadio : Prop :=
  ∀ s : State,
    (∀ nid i, i = .serialNid nid ∨ i = .brokerSetNetworkId nid →
      ∃ t, exec i s = .next t ∧
        t = { s with radioNetId := nid, seen := s.seen ++ [.setNetworkId nid], radioStandby := t.radioStandby
                     draws := t.draws } ∧
        (s.radioStandby = false → t.radioStandby = false ∧ t.draws = s.draws)) ∧
    (∀ b i, i = .serialCmd b ∨ i = .brokerSend b →
      ∃ t, exec i s = .next t ∧
        t = { s with seen := s.seen ++ [.send b], radioStandby := t.radioStandby, draws := t.draws } ∧
        (s.radioStandby = false → t.radioStandby = false ∧ t.draws = s.draws)) ∧
    (∀ i, i = .serialLst ∨ i = .brokerListen →
      ∃ t, exec i s = .next t ∧
        t = { s with seen := s.seen ++ [.receive], radioStandby := t.radioStandby, draws := t.draws } ∧
        (s.radioStandby = false → t.radioStandby = false ∧ t.draws = s.draws)) ∧
    (∀ i, i = .serialSlp ∨ i = .brokerSleep →
      exec i s = .next { s with radioStandby := true, seen := s.seen ++ [.sleep] })

/-- R137 to R141, R144 to R147: what a call puts on either link, character by character. The character codes are PRESUMED,
log entry 25. -/
def Obligations.WireFormsOfTheCalls : Prop :=
  ∀ (u : Bool) (n : NetId) (b : List Byte),
    (wireForm .serial u (.setNetworkId n) =
      .line ([0x4E#8, 0x49#8, 0x44#8, 0x3A#8, 0x20#8] ++ hexEncode u [n.b0, n.b1, n.b2, n.b3] ++ [0x0A#8])) ∧
    (wireForm .serial u .receive = .line [0x4C#8, 0x53#8, 0x54#8, 0x3A#8, 0x0A#8]) ∧
    (wireForm .serial u (.send b) = .line ([0x43#8, 0x4D#8, 0x44#8, 0x3A#8, 0x20#8] ++ hexEncode u b ++ [0x0A#8])) ∧
    (wireForm .serial u .sleep = .line [0x53#8, 0x4C#8, 0x50#8, 0x3A#8, 0x0A#8]) ∧
    (wireForm .broker u .receive = .envelope .listen none) ∧
    (wireForm .broker u .sleep = .envelope .sleep none) ∧
    (wireForm .broker u (.setNetworkId n) = .envelope .setNetworkId (some (hexEncode u [n.b0, n.b1, n.b2, n.b3]))) ∧
    (wireForm .broker u (.send b) = .envelope .send (some (hexEncode u b)))

/-- R92, R129: on either link and in either letter case, the step that takes an issued call from the link is that call:
the text form loses nothing. That the transport takes one item at a turn is the model's choice, log entry 12. -/
def Obligations.TakingAnIssuedCall : Prop :=
  ∀ (s : State) (l : Link) (u : Bool) (c : Call) (rest : List WireItem),
    (∀ b, c = .send b → 1 ≤ b.length ∧ b.length ≤ 256) → s.outbound = wireForm l u c :: rest →
    (s.events = [] → step s = .next ((s.withOutbound rest).takeCall c)) ∧
    (∀ es, s.events = .turn :: es → step s = .next (((s.withEvents es).withOutbound rest).takeCall c))

/-- R142, R148, R183: incoming hex text on either link is delivered to the receive that waits for it, and ignored where none
waits. A malformed serial line is discarded without a trace; a malformed broker message ends `T_RECEIVE` with
`MalformedHex` and no counts, `BUF` unchanged. What is ignored where none waits is the model's choice, log entry 12. -/
def Obligations.IncomingRowsDeliver : Prop :=
  ∀ (s : State) (text : List Byte),
    (∀ b, s.awaitsFrame = true → hexDecode text = .ok b →
      DeliversBytes s (exec (.serialIncoming text) s) b ∧ DeliversBytes s (exec (.brokerIncoming text) s) b) ∧
    (∀ r, hexDecode text = .error r → exec (.serialIncoming text) s = .next s) ∧
    (∀ r, s.awaitsFrame = true → s.cmd ≠ 0x05#8 → hexDecode text = .error r →
      exec (.brokerIncoming text) s = .next (s.withEnd s.cmd 1#8 0#16 0#16 0#3 0#9 (statusFatal s.status))) ∧
    (s.awaitsFrame = false →
      exec (.serialIncoming text) s = .next s ∧ exec (.brokerIncoming text) s = .next s)

/-- R142: the incoming serial stream. Where a receive waits, the characters that arrive follow the unread ones; while they
complete no line they stay and nothing else happens; once they do, the first line, up to and excluding CR LF, is the
instruction, and the characters after it stay unread. A line left unread is the instruction of a later turn. That a piece
of the stream comes as an answer to the waiting call, and that unread characters wait for the next receive, is the model's
choice, log entry 13; the codes of CR and LF are PRESUMED, log entry 25. -/
def Obligations.SerialStreamIsReadLineByLine : Prop :=
  ∀ (s : State) (text : List Byte) (es : List Event), s.link = .serial → s.activity = .waiting .receive → s.outbound = [] →
    (s.events = .answer s.issued (.ok text) :: es →
      (¬ [0x0D#8, 0x0A#8] <:+: s.incoming ++ text →
        step s = .next { s with events := es, incoming := s.incoming ++ text }) ∧
      (∀ line rest, ¬ [0x0D#8, 0x0A#8] <:+: line → s.incoming ++ text = line ++ [0x0D#8, 0x0A#8] ++ rest →
        step s = exec (.serialIncoming line) { s with events := es, incoming := rest })) ∧
    (∀ line rest, ¬ [0x0D#8, 0x0A#8] <:+: line → s.incoming = line ++ [0x0D#8, 0x0A#8] ++ rest →
      (s.events = [] → step s = exec (.serialIncoming line) { s with incoming := rest }) ∧
      (s.events = .turn :: es → step s = exec (.serialIncoming line) { s with events := es, incoming := rest }))

/-- R195: an `err` answer records `TransportFailure` with no counts: it ends a pass-through command, and fails a
handshake in the state it was in. That the radio's own state may be anything after a failed call that would change it, and
is as it was after any other, is the model's choice, log entry 5 (U3); that the unread characters of the incoming serial
stream stay is the model's choice, log entry 13. -/
def Obligations.TransportFailureRecorded : Prop :=
  ∀ (s : State) (c : Call) (es : List Event), s.activity = .waiting c → s.outbound = [] →
    s.events = .answer s.issued .err :: es →
    ∃ t, step s = .next t ∧
      t = { (if s.cmd = 0x05#8 then s.withFailed 6#8 0#16 0#16 (statusFatal s.status)
             else s.withEnd s.cmd 6#8 0#16 0#16 0#3 0#9 (statusFatal s.status)) with
            events := es, radioNetId := t.radioNetId, radioStandby := t.radioStandby, draws := t.draws } ∧
      ((∀ n, c ≠ .setNetworkId n) → t.radioNetId = s.radioNetId) ∧ (c ≠ .sleep → t.radioStandby = s.radioStandby)

/-- R134, R213: an answer to a call that is not the block's last one, whether a reset has abandoned it or it has been
answered, or to a call the block does not wait for, is ignored; so is an answer to a call that the transport has not taken.
A call that a step makes has a number of its own, over resets too, so that no late answer can pass for its answer. That
answers name the call, and that an answer before the taking is ignored, is the model's choice, log entry 12. -/
def Obligations.UnexpectedAnswersAreIgnored : Prop :=
  (∀ (s : State) (n : Nat) (a : Answer) (es : List Event), s.events = .answer n a :: es →
    n ≠ s.issued ∨ (∀ c, s.activity ≠ .waiting c) ∨ s.outbound ≠ [] → step s = .next (s.withEvents es)) ∧
  ∀ s t : State, step s = .next t →
    s.issued ≤ t.issued ∧
      ∀ c, t.activity = .waiting c → t.issued = s.issued + 1 ∨ (t.issued = s.issued ∧ s.activity = .waiting c)

/-! ### The sequencer -/

/-- R152 to R155, R158: the calls of the sequencer's states that send no frame. -/
def Obligations.SequencerCalls : Prop :=
  ∀ s : State, s.activity = .sequencing →
    (s.assoc = .awaitingBroadcast → s.phase = 0#2 → OnTurn s (fun r o => o = .next (r.withOwnCall .receive))) ∧
    (s.assoc = .announced → OnTurn s (fun r o => o = .next (r.withOwnCall (.setNetworkId s.bcNetId)))) ∧
    (s.assoc = .initialized →
      OnTurn s (fun r o => o = .next { r with retryCnt := 0#16, assoc := .confirming, phase := 0#2 })) ∧
    (s.assoc = .confirming → s.phase = 2#2 → OnTurn s (fun r o => o = .next (r.withOwnCall .receive)))

/-- R154, R156, R169: the announce frame, its header from the latches with the response bit set and its payload from the
template; and the init frame from its template. Each makes exactly one call. That `BUF` is written before the call is
answered is the model's reading of R151 against R166, log entry 17. -/
def Obligations.AnnounceAndInitFramesSent : Prop :=
  ∀ s : State, s.activity = .sequencing →
    (s.assoc = .awaitingBroadcast → s.phase = 1#2 → s.cfg.annPlen.toNat ≤ 249 →
      OnTurn s (fun r o => SendsFromBuf r o
        ([6#8 + s.cfg.annPlen, s.bcFrom, 0x20#8, s.bcRequestId.extractLsb' 8 8, s.bcRequestId.extractLsb' 0 8,
          s.bcRoa ||| 0x80#8, s.bcMsgType] ++ s.annBytes))) ∧
    (s.assoc = .networkSwitched →
      OnTurn s (fun r o => SendsFromBuf r o
        [8#8, s.bcFrom, 0x20#8, s.cfg.initRequestId.extractLsb' 8 8, s.cfg.initRequestId.extractLsb' 0 8,
          s.cfg.initRoa, s.cfg.initMsgType, s.cfg.initData0, s.cfg.initData1]))

/-- R159: the temperature report: the template with the exterior temperature's two bytes, low first, at the configured
offset; the template is not modified. That `BUF` is written before the call is
answered is the model's reading of R151 against R166, log entry 17. -/
def Obligations.ReportFrameSent : Prop :=
  ∀ s : State, s.activity = .sequencing → s.assoc = .confirming → s.phase = 1#2 → TemplatesReady s.cfg →
    ∃ p : List Byte, p.length = s.cfg.tempPlen.toNat ∧
      p[s.cfg.extTempOff.toNat]? = some (s.cfg.extTemp.extractLsb' 0 8) ∧
      p[s.cfg.extTempOff.toNat + 1]? = some (s.cfg.extTemp.extractLsb' 8 8) ∧
      (∀ j, j < s.cfg.tempPlen.toNat → j ≠ s.cfg.extTempOff.toNat → j ≠ s.cfg.extTempOff.toNat + 1 →
        p[j]? = some (s.byteAt (0x1500 + j))) ∧
      OnTurn s (fun r o => SendsFromBuf r o
        ([6#8 + s.cfg.tempPlen, s.bcFrom, 0x20#8, s.cfg.tempRequestId.extractLsb' 8 8,
          s.cfg.tempRequestId.extractLsb' 0 8, s.cfg.tempRoa, s.cfg.tempMsgType] ++ p))

/-- R196: the bound of the confirm loop; below it an iteration is counted (R158). -/
def Obligations.RetryBound : Prop :=
  ∀ s : State, s.activity = .sequencing → s.assoc = .confirming → s.phase = 0#2 →
    (s.cfg.maxRetry.toNat ≤ s.retryCnt.toNat →
      OnTurn s (fun r o => o = .next { r.withEnd r.cmd 7#8 s.cfg.maxRetry s.retryCnt 5#3 0#9 (statusFatal s.status) with
        assoc := .failed, phase := 0#2 })) ∧
    (s.retryCnt.toNat < s.cfg.maxRetry.toNat →
      OnTurn s (fun r o => ∃ t, o = .next t ∧ t = { r with retryCnt := t.retryCnt, phase := 1#2 } ∧
        t.retryCnt.toNat = s.retryCnt.toNat + 1))

/-- R166, R180 to R182: where an `ok` answer to a call other than a receive takes the sequencer; outside a handshake it ends
the pass-through command with `RESULT = 0`. -/
def Obligations.OkAnswersAdvance : Prop :=
  ∀ (s : State) (c : Call) (text : List Byte) (es : List Event), s.activity = .waiting c → c ≠ .receive →
    s.outbound = [] → s.events = .answer s.issued (.ok text) :: es →
    (s.cmd ≠ 0x05#8 →
      step s = .next { s.withEnd s.cmd 0#8 0#16 0#16 0#3 0#9 (statusFatal s.status) with events := es }) ∧
    (s.cmd = 0x05#8 →
      (s.assoc = .idle → step s =
        .next { s with events := es, activity := .sequencing, assoc := .awaitingBroadcast, phase := 0#2 }) ∧
      (s.assoc = .awaitingBroadcast → step s =
        .next { s with events := es, activity := .sequencing, assoc := .announced, phase := 0#2 }) ∧
      (s.assoc = .announced → step s =
        .next { s with events := es, activity := .sequencing, assoc := .networkSwitched, phase := 0#2 }) ∧
      (s.assoc = .networkSwitched → step s =
        .next { s with events := es, activity := .sequencing, assoc := .initialized, phase := 0#2 }) ∧
      (s.assoc = .confirming → step s = .next { s with events := es, activity := .sequencing, phase := 2#2 }))

/-- R153, R163, R166: the listening sequencer reaches phase 1, from where it sends the announce, only by decoding a boiler
association broadcast, whose values it has latched; from a state with the invariant the only other ways on are to listen
on, to fail, and reset. -/
def Obligations.OnlyABroadcastReachesTheAnnounce : Prop :=
  ∀ s t : State, step s = .next t → s.assoc = .awaitingBroadcast → s.phase = 0#2 →
    (t.assoc = .awaitingBroadcast → t.phase ≠ 0#2 →
      t.phase = 1#2 ∧
      ∃ f, decodeFrame s.bufBytes = .ok (f, 12) ∧ f.head.fromAddr = 0x80#8 ∧ f.head.length = 11#8 ∧
        t.bcRequestId = f.head.requestId ∧ t.bcMsgType = f.head.msgType ∧ t.bcRoa = f.head.reqOrAnswer ∧
        t.bcFrom = 0x80#8 ∧ [t.bcNetId.b0, t.bcNetId.b1, t.bcNetId.b2, t.bcNetId.b3] = f.payload.drop 1) ∧
    (s.Inv →
      (t.assoc = .awaitingBroadcast ∧ (t.phase = 0#2 ∨ t.phase = 1#2)) ∨
      (t.assoc = .failed ∧ t.result ≠ 0#8 ∧ t.errState = 1#3) ∨
      (t.assoc = .idle ∧ ∃ es, s.events = .reset :: es))

/-- R160, R164: `Paired` is entered only from the confirm loop, on a decoded boiler frame, with `RESULT = 0`; `Paired` and
`Failed` are left only for `Idle`. -/
def Obligations.PairedOnlyByABoilerFrame : Prop :=
  ∀ s t : State, step s = .next t →
    (t.assoc = .paired → s.assoc ≠ .paired →
      s.assoc = .confirming ∧ t.result = 0#8 ∧
        ∃ f n, decodeFrame s.bufBytes = .ok (f, n) ∧ f.head.fromAddr = 0x80#8 ∧ t.fr = f.head) ∧
    (s.Inv → s.assoc = .paired ∨ s.assoc = .failed → t.assoc = s.assoc ∨ t.assoc = .idle)

/-! ### The whole machine -/

/-- R14, R22: when the next act brings up a unit that decodes to an instruction, the step is that instruction, in the
state in which the act has been taken off the link or the script; and where the unit of each format stands: what the
transport takes from the link, the received bytes that await the codec, the host's write to `CMD` and at the flag byte's
place, the line or the field that answers a receive. That the acts stand in a script, and that one act is one step, is the model's
choice, log entries 10 and 12; that the flag byte's place is an instruction's place is log entry 11; how the serial stream
is read is log entry 13. -/
def Obligations.StepRunsTheDecodedInstruction : Prop :=
  (∀ (s s1 : State) (u : Encoded) (i : Instr), s.fetch = some (u, s1) → Sys2Proof.decode s1.cfg u = .ok i →
    step s = exec i s1) ∧
  ∀ (s : State) (es : List Event),
    (∀ w rest, s.outbound = w :: rest →
      (s.events = [] → s.fetch = some (.wire w, s.withOutbound rest)) ∧
      (s.events = .turn :: es → s.fetch = some (.wire w, (s.withEvents es).withOutbound rest))) ∧
    (s.outbound = [] → s.activity = .decoding →
      (s.events = [] → s.fetch = some (.frame s.bufBytes, s)) ∧
      (s.events = .turn :: es → s.fetch = some (.frame s.bufBytes, s.withEvents es))) ∧
    (∀ v : PortWord, s.busy = false → s.events = .hostWrite 0x00 v :: es →
      s.fetch = some (.hostCmd (v.setWidth 8), s.withEvents es)) ∧
    (∀ (v : PortWord) (o : Nat), s.busy = false → s.flagOffset = some o →
      s.events = .hostWrite (0x1000 + o) v :: es →
      s.fetch = some (.flagByte (v.setWidth 8), s.withEvents es)) ∧
    (∀ text, s.activity = .waiting .receive → s.outbound = [] → s.events = .answer s.issued (.ok text) :: es →
      (s.link = .broker → s.fetch = some (.incomingField text, s.withEvents es)) ∧
      (∀ line rest, s.link = .serial → splitLine (s.incoming ++ text) = some (line, rest) →
        s.fetch = some (.incomingLine (line ++ [0x0D#8, 0x0A#8]), (s.withEvents es).withIncoming rest)))

/-- The invariant of Safety.lean (canonical memory, R23, R25, R26, R28, R29, R134, R150, R154, R166, R187) is kept by every
step from every state that has it. -/
def Obligations.InvKeptByEveryStep : Prop := ∀ s t : State, s.Inv → step s = .next t → t.Inv

/-- The state after reset has the invariant. -/
def Obligations.InvAtReset : Prop := State.reset.Inv

/-- R38, R41, R211, R213: reset, at any time, puts every register in the value of the reset column, abandons the command,
leaves no byte of memory with a value, and does not touch the transport. -/
def Obligations.ResetPutsEveryRegister : Prop :=
  ∀ (s : State) (es : List Event), s.events = .reset :: es →
    ∃ t, step s = .next t ∧
      (∀ n v, (n, v) ∈
        [(0x00, 0#32), (0x01, 0#32), (0x02, 0#32), (0x03, 0#32), (0x04, 0#32), (0x05, 0#32), (0x06, 0#32), (0x07, 0#32),
         (0x08, 0#32), (0x09, 0#32), (0x0A, 0#32), (0x0B, 0#32), (0x0C, 0#32), (0x0D, 0#32)] ++
        [(0x10, 0#32), (0x11, 0#32), (0x12, 0#32), (0x13, 0#32), (0x14, 0#32), (0x15, 0#32), (0x16, 0#32), (0x17, 3#32),
         (0x18, 0#32), (0x20, 0#32), (0x21, 0#32)] ++
        [(0x30, 0#32), (0x31, 0#32), (0x32, 0#32), (0x33, 0#32), (0x34, 0#32), (0x35, 0#32), (0x36, 0#32), (0x37, 0#32),
         (0x40, 0#32), (0x41, 0#32), (0x42, 0#32), (0x43, 0x01#32), (0x44, 0x43#32), (0x45, 0#32), (0x46, 0#32),
         (0x47, 0#32), (0x48, 0#32), (0x49, 0#32), (0x4A, 0#32), (0x4B, 0#32)] →
        t.reading n = .value v) ∧
      t.phase = 0#2 ∧ t.activity = .idle ∧ (∀ a, Memory.read t.mem a = none) ∧
      t.radioNetId = s.radioNetId ∧ t.radioStandby = s.radioStandby ∧ t.link = s.link ∧ t.events = es

/-- R28, R192: FATAL is sticky: only reset clears it; and it is set only together with the cause `UnknownSource`. -/
def Obligations.FatalIsSticky : Prop :=
  ∀ s t : State, step s = .next t →
    (s.fatal = true → (∀ es, s.events ≠ .reset :: es) → t.fatal = true) ∧
    (s.fatal = false → t.fatal = true → t.result = 3#8 ∧ t.errExpected = 0#16)

/-- R61, R170, R185: no command, and nothing but a host write to a register outside a command, or reset, changes the
configuration or a template. -/
def Obligations.ConfigurationIsTheHosts : Prop :=
  ∀ s t : State, step s = .next t → (∀ es, s.events ≠ .reset :: es) →
    (s.busy = true ∨ ∀ n v es, s.events = .hostWrite n v :: es → n = 0) →
    t.cfg = s.cfg ∧ ∀ a, annBase ≤ a → Memory.read t.mem a = Memory.read s.mem a

/-- R44, R129: the block cannot learn the network identity the radio listens on: two runs that differ only in it go on
differing only in it. -/
def Obligations.RadioIdentityIsHidden : Prop :=
  ∀ s t : State, s.hideRadio = t.hideRadio → SameButRadio (step s) (step t)

/-- R130, R213, R222: the radio's identity changes only when the transport takes a `set_network_id` call, to that call's
argument, or when such a call is answered `err`. That it changes when the call is taken, and is open after an `err` (U3),
is the model's choice, log entries 24 and 5. -/
def Obligations.OnlySetNetworkIdMovesTheRadio : Prop :=
  ∀ s t : State, step s = .next t → t.radioNetId ≠ s.radioNetId →
    t.seen = s.seen ++ [.setNetworkId t.radioNetId] ∨
      ∃ n es, s.activity = .waiting (.setNetworkId n) ∧ s.events = .answer s.issued .err :: es
end

