-- ==== Sys2Proof/Laws/State.lean ====
section
/-! SUPPORT. The small lemmas of every record update of the machine: one per field, true by rfl, so that no proof unfolds
an update. -/

namespace Sys2Proof.Machine

variable (s : State)

/-! ### setBuf -/

@[simp] theorem State.setBuf_fr (b : List Byte) : (s.setBuf b).fr = s.fr := rfl
@[simp] theorem State.setBuf_plen (b : List Byte) : (s.setBuf b).plen = s.plen := rfl
@[simp] theorem State.setBuf_bufLen (b : List Byte) : (s.setBuf b).bufLen = BitVec.ofNat 9 (b.take bufSize).length := rfl
@[simp] theorem State.setBuf_txtLen (b : List Byte) : (s.setBuf b).txtLen = s.txtLen := rfl
@[simp] theorem State.setBuf_cmd (b : List Byte) : (s.setBuf b).cmd = s.cmd := rfl
@[simp] theorem State.setBuf_status (b : List Byte) : (s.setBuf b).status = s.status := rfl
@[simp] theorem State.setBuf_result (b : List Byte) : (s.setBuf b).result = s.result := rfl
@[simp] theorem State.setBuf_errExpected (b : List Byte) : (s.setBuf b).errExpected = s.errExpected := rfl
@[simp] theorem State.setBuf_errActual (b : List Byte) : (s.setBuf b).errActual = s.errActual := rfl
@[simp] theorem State.setBuf_errState (b : List Byte) : (s.setBuf b).errState = s.errState := rfl
@[simp] theorem State.setBuf_consumed (b : List Byte) : (s.setBuf b).consumed = s.consumed := rfl
@[simp] theorem State.setBuf_assoc (b : List Byte) : (s.setBuf b).assoc = s.assoc := rfl
@[simp] theorem State.setBuf_phase (b : List Byte) : (s.setBuf b).phase = s.phase := rfl
@[simp] theorem State.setBuf_retryCnt (b : List Byte) : (s.setBuf b).retryCnt = s.retryCnt := rfl
@[simp] theorem State.setBuf_bcRequestId (b : List Byte) : (s.setBuf b).bcRequestId = s.bcRequestId := rfl
@[simp] theorem State.setBuf_bcMsgType (b : List Byte) : (s.setBuf b).bcMsgType = s.bcMsgType := rfl
@[simp] theorem State.setBuf_bcRoa (b : List Byte) : (s.setBuf b).bcRoa = s.bcRoa := rfl
@[simp] theorem State.setBuf_bcFrom (b : List Byte) : (s.setBuf b).bcFrom = s.bcFrom := rfl
@[simp] theorem State.setBuf_bcNetId (b : List Byte) : (s.setBuf b).bcNetId = s.bcNetId := rfl
@[simp] theorem State.setBuf_cfg (b : List Byte) : (s.setBuf b).cfg = s.cfg := rfl
@[simp] theorem State.setBuf_mem (b : List Byte) : (s.setBuf b).mem = Memory.write s.mem bufBase (b.take bufSize) := rfl
@[simp] theorem State.setBuf_activity (b : List Byte) : (s.setBuf b).activity = s.activity := rfl
@[simp] theorem State.setBuf_outbound (b : List Byte) : (s.setBuf b).outbound = s.outbound := rfl
@[simp] theorem State.setBuf_incoming (b : List Byte) : (s.setBuf b).incoming = s.incoming := rfl
@[simp] theorem State.setBuf_link (b : List Byte) : (s.setBuf b).link = s.link := rfl
@[simp] theorem State.setBuf_radioNetId (b : List Byte) : (s.setBuf b).radioNetId = s.radioNetId := rfl
@[simp] theorem State.setBuf_radioStandby (b : List Byte) : (s.setBuf b).radioStandby = s.radioStandby := rfl
@[simp] theorem State.setBuf_seen (b : List Byte) : (s.setBuf b).seen = s.seen := rfl
@[simp] theorem State.setBuf_issued (b : List Byte) : (s.setBuf b).issued = s.issued := rfl
@[simp] theorem State.setBuf_events (b : List Byte) : (s.setBuf b).events = s.events := rfl
@[simp] theorem State.setBuf_portData (b : List Byte) : (s.setBuf b).portData = s.portData := rfl
@[simp] theorem State.setBuf_epoch (b : List Byte) : (s.setBuf b).epoch = s.epoch := rfl
@[simp] theorem State.setBuf_draws (b : List Byte) : (s.setBuf b).draws = s.draws := rfl

/-! ### setTxt -/

@[simp] theorem State.setTxt_fr (t : List Byte) : (s.setTxt t).fr = s.fr := rfl
@[simp] theorem State.setTxt_plen (t : List Byte) : (s.setTxt t).plen = s.plen := rfl
@[simp] theorem State.setTxt_bufLen (t : List Byte) : (s.setTxt t).bufLen = s.bufLen := rfl
@[simp] theorem State.setTxt_txtLen (t : List Byte) : (s.setTxt t).txtLen = BitVec.ofNat 10 (t.take txtSize).length := rfl
@[simp] theorem State.setTxt_cmd (t : List Byte) : (s.setTxt t).cmd = s.cmd := rfl
@[simp] theorem State.setTxt_status (t : List Byte) : (s.setTxt t).status = s.status := rfl
@[simp] theorem State.setTxt_result (t : List Byte) : (s.setTxt t).result = s.result := rfl
@[simp] theorem State.setTxt_errExpected (t : List Byte) : (s.setTxt t).errExpected = s.errExpected := rfl
@[simp] theorem State.setTxt_errActual (t : List Byte) : (s.setTxt t).errActual = s.errActual := rfl
@[simp] theorem State.setTxt_errState (t : List Byte) : (s.setTxt t).errState = s.errState := rfl
@[simp] theorem State.setTxt_consumed (t : List Byte) : (s.setTxt t).consumed = s.consumed := rfl
@[simp] theorem State.setTxt_assoc (t : List Byte) : (s.setTxt t).assoc = s.assoc := rfl
@[simp] theorem State.setTxt_phase (t : List Byte) : (s.setTxt t).phase = s.phase := rfl
@[simp] theorem State.setTxt_retryCnt (t : List Byte) : (s.setTxt t).retryCnt = s.retryCnt := rfl
@[simp] theorem State.setTxt_bcRequestId (t : List Byte) : (s.setTxt t).bcRequestId = s.bcRequestId := rfl
@[simp] theorem State.setTxt_bcMsgType (t : List Byte) : (s.setTxt t).bcMsgType = s.bcMsgType := rfl
@[simp] theorem State.setTxt_bcRoa (t : List Byte) : (s.setTxt t).bcRoa = s.bcRoa := rfl
@[simp] theorem State.setTxt_bcFrom (t : List Byte) : (s.setTxt t).bcFrom = s.bcFrom := rfl
@[simp] theorem State.setTxt_bcNetId (t : List Byte) : (s.setTxt t).bcNetId = s.bcNetId := rfl
@[simp] theorem State.setTxt_cfg (t : List Byte) : (s.setTxt t).cfg = s.cfg := rfl
@[simp] theorem State.setTxt_mem (t : List Byte) : (s.setTxt t).mem = Memory.write s.mem txtBase (t.take txtSize) := rfl
@[simp] theorem State.setTxt_activity (t : List Byte) : (s.setTxt t).activity = s.activity := rfl
@[simp] theorem State.setTxt_outbound (t : List Byte) : (s.setTxt t).outbound = s.outbound := rfl
@[simp] theorem State.setTxt_incoming (t : List Byte) : (s.setTxt t).incoming = s.incoming := rfl
@[simp] theorem State.setTxt_link (t : List Byte) : (s.setTxt t).link = s.link := rfl
@[simp] theorem State.setTxt_radioNetId (t : List Byte) : (s.setTxt t).radioNetId = s.radioNetId := rfl
@[simp] theorem State.setTxt_radioStandby (t : List Byte) : (s.setTxt t).radioStandby = s.radioStandby := rfl
@[simp] theorem State.setTxt_seen (t : List Byte) : (s.setTxt t).seen = s.seen := rfl
@[simp] theorem State.setTxt_issued (t : List Byte) : (s.setTxt t).issued = s.issued := rfl
@[simp] theorem State.setTxt_events (t : List Byte) : (s.setTxt t).events = s.events := rfl
@[simp] theorem State.setTxt_portData (t : List Byte) : (s.setTxt t).portData = s.portData := rfl
@[simp] theorem State.setTxt_epoch (t : List Byte) : (s.setTxt t).epoch = s.epoch := rfl
@[simp] theorem State.setTxt_draws (t : List Byte) : (s.setTxt t).draws = s.draws := rfl

/-! ### setFrame -/

@[simp] theorem State.setFrame_fr (f : Frame) : (s.setFrame f).fr = f.head := rfl
@[simp] theorem State.setFrame_plen (f : Frame) : (s.setFrame f).plen = f.head.length - 6#8 := rfl
@[simp] theorem State.setFrame_bufLen (f : Frame) : (s.setFrame f).bufLen = s.bufLen := rfl
@[simp] theorem State.setFrame_txtLen (f : Frame) : (s.setFrame f).txtLen = s.txtLen := rfl
@[simp] theorem State.setFrame_cmd (f : Frame) : (s.setFrame f).cmd = s.cmd := rfl
@[simp] theorem State.setFrame_status (f : Frame) : (s.setFrame f).status = s.status := rfl
@[simp] theorem State.setFrame_result (f : Frame) : (s.setFrame f).result = s.result := rfl
@[simp] theorem State.setFrame_errExpected (f : Frame) : (s.setFrame f).errExpected = s.errExpected := rfl
@[simp] theorem State.setFrame_errActual (f : Frame) : (s.setFrame f).errActual = s.errActual := rfl
@[simp] theorem State.setFrame_errState (f : Frame) : (s.setFrame f).errState = s.errState := rfl
@[simp] theorem State.setFrame_consumed (f : Frame) : (s.setFrame f).consumed = s.consumed := rfl
@[simp] theorem State.setFrame_assoc (f : Frame) : (s.setFrame f).assoc = s.assoc := rfl
@[simp] theorem State.setFrame_phase (f : Frame) : (s.setFrame f).phase = s.phase := rfl
@[simp] theorem State.setFrame_retryCnt (f : Frame) : (s.setFrame f).retryCnt = s.retryCnt := rfl
@[simp] theorem State.setFrame_bcRequestId (f : Frame) : (s.setFrame f).bcRequestId = s.bcRequestId := rfl
@[simp] theorem State.setFrame_bcMsgType (f : Frame) : (s.setFrame f).bcMsgType = s.bcMsgType := rfl
@[simp] theorem State.setFrame_bcRoa (f : Frame) : (s.setFrame f).bcRoa = s.bcRoa := rfl
@[simp] theorem State.setFrame_bcFrom (f : Frame) : (s.setFrame f).bcFrom = s.bcFrom := rfl
@[simp] theorem State.setFrame_bcNetId (f : Frame) : (s.setFrame f).bcNetId = s.bcNetId := rfl
@[simp] theorem State.setFrame_cfg (f : Frame) : (s.setFrame f).cfg = s.cfg := rfl
@[simp] theorem State.setFrame_mem (f : Frame) : (s.setFrame f).mem = Memory.write s.mem payloadBase (f.payload.take payloadSize) := rfl
@[simp] theorem State.setFrame_activity (f : Frame) : (s.setFrame f).activity = s.activity := rfl
@[simp] theorem State.setFrame_outbound (f : Frame) : (s.setFrame f).outbound = s.outbound := rfl
@[simp] theorem State.setFrame_incoming (f : Frame) : (s.setFrame f).incoming = s.incoming := rfl
@[simp] theorem State.setFrame_link (f : Frame) : (s.setFrame f).link = s.link := rfl
@[simp] theorem State.setFrame_radioNetId (f : Frame) : (s.setFrame f).radioNetId = s.radioNetId := rfl
@[simp] theorem State.setFrame_radioStandby (f : Frame) : (s.setFrame f).radioStandby = s.radioStandby := rfl
@[simp] theorem State.setFrame_seen (f : Frame) : (s.setFrame f).seen = s.seen := rfl
@[simp] theorem State.setFrame_issued (f : Frame) : (s.setFrame f).issued = s.issued := rfl
@[simp] theorem State.setFrame_events (f : Frame) : (s.setFrame f).events = s.events := rfl
@[simp] theorem State.setFrame_portData (f : Frame) : (s.setFrame f).portData = s.portData := rfl
@[simp] theorem State.setFrame_epoch (f : Frame) : (s.setFrame f).epoch = s.epoch := rfl
@[simp] theorem State.setFrame_draws (f : Frame) : (s.setFrame f).draws = s.draws := rfl

/-! ### setByte -/

@[simp] theorem State.setByte_fr (a : Nat) (b : Byte) : (s.setByte a b).fr = s.fr := rfl
@[simp] theorem State.setByte_plen (a : Nat) (b : Byte) : (s.setByte a b).plen = s.plen := rfl
@[simp] theorem State.setByte_bufLen (a : Nat) (b : Byte) : (s.setByte a b).bufLen = s.bufLen := rfl
@[simp] theorem State.setByte_txtLen (a : Nat) (b : Byte) : (s.setByte a b).txtLen = s.txtLen := rfl
@[simp] theorem State.setByte_cmd (a : Nat) (b : Byte) : (s.setByte a b).cmd = s.cmd := rfl
@[simp] theorem State.setByte_status (a : Nat) (b : Byte) : (s.setByte a b).status = s.status := rfl
@[simp] theorem State.setByte_result (a : Nat) (b : Byte) : (s.setByte a b).result = s.result := rfl
@[simp] theorem State.setByte_errExpected (a : Nat) (b : Byte) : (s.setByte a b).errExpected = s.errExpected := rfl
@[simp] theorem State.setByte_errActual (a : Nat) (b : Byte) : (s.setByte a b).errActual = s.errActual := rfl
@[simp] theorem State.setByte_errState (a : Nat) (b : Byte) : (s.setByte a b).errState = s.errState := rfl
@[simp] theorem State.setByte_consumed (a : Nat) (b : Byte) : (s.setByte a b).consumed = s.consumed := rfl
@[simp] theorem State.setByte_assoc (a : Nat) (b : Byte) : (s.setByte a b).assoc = s.assoc := rfl
@[simp] theorem State.setByte_phase (a : Nat) (b : Byte) : (s.setByte a b).phase = s.phase := rfl
@[simp] theorem State.setByte_retryCnt (a : Nat) (b : Byte) : (s.setByte a b).retryCnt = s.retryCnt := rfl
@[simp] theorem State.setByte_bcRequestId (a : Nat) (b : Byte) : (s.setByte a b).bcRequestId = s.bcRequestId := rfl
@[simp] theorem State.setByte_bcMsgType (a : Nat) (b : Byte) : (s.setByte a b).bcMsgType = s.bcMsgType := rfl
@[simp] theorem State.setByte_bcRoa (a : Nat) (b : Byte) : (s.setByte a b).bcRoa = s.bcRoa := rfl
@[simp] theorem State.setByte_bcFrom (a : Nat) (b : Byte) : (s.setByte a b).bcFrom = s.bcFrom := rfl
@[simp] theorem State.setByte_bcNetId (a : Nat) (b : Byte) : (s.setByte a b).bcNetId = s.bcNetId := rfl
@[simp] theorem State.setByte_cfg (a : Nat) (b : Byte) : (s.setByte a b).cfg = s.cfg := rfl
@[simp] theorem State.setByte_mem (a : Nat) (b : Byte) : (s.setByte a b).mem = Memory.write s.mem a [b] := rfl
@[simp] theorem State.setByte_activity (a : Nat) (b : Byte) : (s.setByte a b).activity = s.activity := rfl
@[simp] theorem State.setByte_outbound (a : Nat) (b : Byte) : (s.setByte a b).outbound = s.outbound := rfl
@[simp] theorem State.setByte_incoming (a : Nat) (b : Byte) : (s.setByte a b).incoming = s.incoming := rfl
@[simp] theorem State.setByte_link (a : Nat) (b : Byte) : (s.setByte a b).link = s.link := rfl
@[simp] theorem State.setByte_radioNetId (a : Nat) (b : Byte) : (s.setByte a b).radioNetId = s.radioNetId := rfl
@[simp] theorem State.setByte_radioStandby (a : Nat) (b : Byte) : (s.setByte a b).radioStandby = s.radioStandby := rfl
@[simp] theorem State.setByte_seen (a : Nat) (b : Byte) : (s.setByte a b).seen = s.seen := rfl
@[simp] theorem State.setByte_issued (a : Nat) (b : Byte) : (s.setByte a b).issued = s.issued := rfl
@[simp] theorem State.setByte_events (a : Nat) (b : Byte) : (s.setByte a b).events = s.events := rfl
@[simp] theorem State.setByte_portData (a : Nat) (b : Byte) : (s.setByte a b).portData = s.portData := rfl
@[simp] theorem State.setByte_epoch (a : Nat) (b : Byte) : (s.setByte a b).epoch = s.epoch := rfl
@[simp] theorem State.setByte_draws (a : Nat) (b : Byte) : (s.setByte a b).draws = s.draws := rfl

/-! ### startCommand -/

@[simp] theorem State.startCommand_fr (code : Byte) : (s.startCommand code).fr = s.fr := rfl
@[simp] theorem State.startCommand_plen (code : Byte) : (s.startCommand code).plen = s.plen := rfl
@[simp] theorem State.startCommand_bufLen (code : Byte) : (s.startCommand code).bufLen = s.bufLen := rfl
@[simp] theorem State.startCommand_txtLen (code : Byte) : (s.startCommand code).txtLen = s.txtLen := rfl
@[simp] theorem State.startCommand_cmd (code : Byte) : (s.startCommand code).cmd = code := rfl
@[simp] theorem State.startCommand_status (code : Byte) : (s.startCommand code).status = statusStart s.status := rfl
@[simp] theorem State.startCommand_result (code : Byte) : (s.startCommand code).result = s.result := rfl
@[simp] theorem State.startCommand_errExpected (code : Byte) : (s.startCommand code).errExpected = s.errExpected := rfl
@[simp] theorem State.startCommand_errActual (code : Byte) : (s.startCommand code).errActual = s.errActual := rfl
@[simp] theorem State.startCommand_errState (code : Byte) : (s.startCommand code).errState = s.errState := rfl
@[simp] theorem State.startCommand_consumed (code : Byte) : (s.startCommand code).consumed = s.consumed := rfl
@[simp] theorem State.startCommand_assoc (code : Byte) : (s.startCommand code).assoc = s.assoc := rfl
@[simp] theorem State.startCommand_phase (code : Byte) : (s.startCommand code).phase = s.phase := rfl
@[simp] theorem State.startCommand_retryCnt (code : Byte) : (s.startCommand code).retryCnt = s.retryCnt := rfl
@[simp] theorem State.startCommand_bcRequestId (code : Byte) : (s.startCommand code).bcRequestId = s.bcRequestId := rfl
@[simp] theorem State.startCommand_bcMsgType (code : Byte) : (s.startCommand code).bcMsgType = s.bcMsgType := rfl
@[simp] theorem State.startCommand_bcRoa (code : Byte) : (s.startCommand code).bcRoa = s.bcRoa := rfl
@[simp] theorem State.startCommand_bcFrom (code : Byte) : (s.startCommand code).bcFrom = s.bcFrom := rfl
@[simp] theorem State.startCommand_bcNetId (code : Byte) : (s.startCommand code).bcNetId = s.bcNetId := rfl
@[simp] theorem State.startCommand_cfg (code : Byte) : (s.startCommand code).cfg = s.cfg := rfl
@[simp] theorem State.startCommand_mem (code : Byte) : (s.startCommand code).mem = s.mem := rfl
@[simp] theorem State.startCommand_activity (code : Byte) : (s.startCommand code).activity = .idle := rfl
@[simp] theorem State.startCommand_outbound (code : Byte) : (s.startCommand code).outbound = s.outbound := rfl
@[simp] theorem State.startCommand_incoming (code : Byte) : (s.startCommand code).incoming = s.incoming := rfl
@[simp] theorem State.startCommand_link (code : Byte) : (s.startCommand code).link = s.link := rfl
@[simp] theorem State.startCommand_radioNetId (code : Byte) : (s.startCommand code).radioNetId = s.radioNetId := rfl
@[simp] theorem State.startCommand_radioStandby (code : Byte) : (s.startCommand code).radioStandby = s.radioStandby := rfl
@[simp] theorem State.startCommand_seen (code : Byte) : (s.startCommand code).seen = s.seen := rfl
@[simp] theorem State.startCommand_issued (code : Byte) : (s.startCommand code).issued = s.issued := rfl
@[simp] theorem State.startCommand_events (code : Byte) : (s.startCommand code).events = s.events := rfl
@[simp] theorem State.startCommand_portData (code : Byte) : (s.startCommand code).portData = s.portData := rfl
@[simp] theorem State.startCommand_epoch (code : Byte) : (s.startCommand code).epoch = s.epoch := rfl
@[simp] theorem State.startCommand_draws (code : Byte) : (s.startCommand code).draws = s.draws := rfl

/-! ### finish -/

@[simp] theorem State.finish_fr (r : Raised) (e : BitVec 3) (n : Nat) : (s.finish r e n).fr = s.fr := rfl
@[simp] theorem State.finish_plen (r : Raised) (e : BitVec 3) (n : Nat) : (s.finish r e n).plen = s.plen := rfl
@[simp] theorem State.finish_bufLen (r : Raised) (e : BitVec 3) (n : Nat) : (s.finish r e n).bufLen = s.bufLen := rfl
@[simp] theorem State.finish_txtLen (r : Raised) (e : BitVec 3) (n : Nat) : (s.finish r e n).txtLen = s.txtLen := rfl
@[simp] theorem State.finish_cmd (r : Raised) (e : BitVec 3) (n : Nat) : (s.finish r e n).cmd = s.cmd := rfl
@[simp] theorem State.finish_status (r : Raised) (e : BitVec 3) (n : Nat) : (s.finish r e n).status = statusEnd s.status r.cause := rfl
@[simp] theorem State.finish_result (r : Raised) (e : BitVec 3) (n : Nat) : (s.finish r e n).result = r.cause.code := rfl
@[simp] theorem State.finish_errExpected (r : Raised) (e : BitVec 3) (n : Nat) : (s.finish r e n).errExpected = BitVec.ofNat 16 r.expected := rfl
@[simp] theorem State.finish_errActual (r : Raised) (e : BitVec 3) (n : Nat) : (s.finish r e n).errActual = BitVec.ofNat 16 r.actual := rfl
@[simp] theorem State.finish_errState (r : Raised) (e : BitVec 3) (n : Nat) : (s.finish r e n).errState = e := rfl
@[simp] theorem State.finish_consumed (r : Raised) (e : BitVec 3) (n : Nat) : (s.finish r e n).consumed = BitVec.ofNat 9 n := rfl
@[simp] theorem State.finish_assoc (r : Raised) (e : BitVec 3) (n : Nat) : (s.finish r e n).assoc = s.assoc := rfl
@[simp] theorem State.finish_phase (r : Raised) (e : BitVec 3) (n : Nat) : (s.finish r e n).phase = s.phase := rfl
@[simp] theorem State.finish_retryCnt (r : Raised) (e : BitVec 3) (n : Nat) : (s.finish r e n).retryCnt = s.retryCnt := rfl
@[simp] theorem State.finish_bcRequestId (r : Raised) (e : BitVec 3) (n : Nat) : (s.finish r e n).bcRequestId = s.bcRequestId := rfl
@[simp] theorem State.finish_bcMsgType (r : Raised) (e : BitVec 3) (n : Nat) : (s.finish r e n).bcMsgType = s.bcMsgType := rfl
@[simp] theorem State.finish_bcRoa (r : Raised) (e : BitVec 3) (n : Nat) : (s.finish r e n).bcRoa = s.bcRoa := rfl
@[simp] theorem State.finish_bcFrom (r : Raised) (e : BitVec 3) (n : Nat) : (s.finish r e n).bcFrom = s.bcFrom := rfl
@[simp] theorem State.finish_bcNetId (r : Raised) (e : BitVec 3) (n : Nat) : (s.finish r e n).bcNetId = s.bcNetId := rfl
@[simp] theorem State.finish_cfg (r : Raised) (e : BitVec 3) (n : Nat) : (s.finish r e n).cfg = s.cfg := rfl
@[simp] theorem State.finish_mem (r : Raised) (e : BitVec 3) (n : Nat) : (s.finish r e n).mem = s.mem := rfl
@[simp] theorem State.finish_activity (r : Raised) (e : BitVec 3) (n : Nat) : (s.finish r e n).activity = .idle := rfl
@[simp] theorem State.finish_outbound (r : Raised) (e : BitVec 3) (n : Nat) : (s.finish r e n).outbound = s.outbound := rfl
@[simp] theorem State.finish_incoming (r : Raised) (e : BitVec 3) (n : Nat) : (s.finish r e n).incoming = s.incoming := rfl
@[simp] theorem State.finish_link (r : Raised) (e : BitVec 3) (n : Nat) : (s.finish r e n).link = s.link := rfl
@[simp] theorem State.finish_radioNetId (r : Raised) (e : BitVec 3) (n : Nat) : (s.finish r e n).radioNetId = s.radioNetId := rfl
@[simp] theorem State.finish_radioStandby (r : Raised) (e : BitVec 3) (n : Nat) : (s.finish r e n).radioStandby = s.radioStandby := rfl
@[simp] theorem State.finish_seen (r : Raised) (e : BitVec 3) (n : Nat) : (s.finish r e n).seen = s.seen := rfl
@[simp] theorem State.finish_issued (r : Raised) (e : BitVec 3) (n : Nat) : (s.finish r e n).issued = s.issued := rfl
@[simp] theorem State.finish_events (r : Raised) (e : BitVec 3) (n : Nat) : (s.finish r e n).events = s.events := rfl
@[simp] theorem State.finish_portData (r : Raised) (e : BitVec 3) (n : Nat) : (s.finish r e n).portData = s.portData := rfl
@[simp] theorem State.finish_epoch (r : Raised) (e : BitVec 3) (n : Nat) : (s.finish r e n).epoch = s.epoch := rfl
@[simp] theorem State.finish_draws (r : Raised) (e : BitVec 3) (n : Nat) : (s.finish r e n).draws = s.draws := rfl

/-! ### succeed -/

@[simp] theorem State.succeed_fr : (s.succeed).fr = s.fr := rfl
@[simp] theorem State.succeed_plen : (s.succeed).plen = s.plen := rfl
@[simp] theorem State.succeed_bufLen : (s.succeed).bufLen = s.bufLen := rfl
@[simp] theorem State.succeed_txtLen : (s.succeed).txtLen = s.txtLen := rfl
@[simp] theorem State.succeed_cmd : (s.succeed).cmd = s.cmd := rfl
@[simp] theorem State.succeed_status : (s.succeed).status = statusEnd s.status .ok := rfl
@[simp] theorem State.succeed_result : (s.succeed).result = 0#8 := rfl
@[simp] theorem State.succeed_errExpected : (s.succeed).errExpected = 0#16 := rfl
@[simp] theorem State.succeed_errActual : (s.succeed).errActual = 0#16 := rfl
@[simp] theorem State.succeed_errState : (s.succeed).errState = 0#3 := rfl
@[simp] theorem State.succeed_consumed : (s.succeed).consumed = 0#9 := rfl
@[simp] theorem State.succeed_assoc : (s.succeed).assoc = s.assoc := rfl
@[simp] theorem State.succeed_phase : (s.succeed).phase = s.phase := rfl
@[simp] theorem State.succeed_retryCnt : (s.succeed).retryCnt = s.retryCnt := rfl
@[simp] theorem State.succeed_bcRequestId : (s.succeed).bcRequestId = s.bcRequestId := rfl
@[simp] theorem State.succeed_bcMsgType : (s.succeed).bcMsgType = s.bcMsgType := rfl
@[simp] theorem State.succeed_bcRoa : (s.succeed).bcRoa = s.bcRoa := rfl
@[simp] theorem State.succeed_bcFrom : (s.succeed).bcFrom = s.bcFrom := rfl
@[simp] theorem State.succeed_bcNetId : (s.succeed).bcNetId = s.bcNetId := rfl
@[simp] theorem State.succeed_cfg : (s.succeed).cfg = s.cfg := rfl
@[simp] theorem State.succeed_mem : (s.succeed).mem = s.mem := rfl
@[simp] theorem State.succeed_activity : (s.succeed).activity = .idle := rfl
@[simp] theorem State.succeed_outbound : (s.succeed).outbound = s.outbound := rfl
@[simp] theorem State.succeed_incoming : (s.succeed).incoming = s.incoming := rfl
@[simp] theorem State.succeed_link : (s.succeed).link = s.link := rfl
@[simp] theorem State.succeed_radioNetId : (s.succeed).radioNetId = s.radioNetId := rfl
@[simp] theorem State.succeed_radioStandby : (s.succeed).radioStandby = s.radioStandby := rfl
@[simp] theorem State.succeed_seen : (s.succeed).seen = s.seen := rfl
@[simp] theorem State.succeed_issued : (s.succeed).issued = s.issued := rfl
@[simp] theorem State.succeed_events : (s.succeed).events = s.events := rfl
@[simp] theorem State.succeed_portData : (s.succeed).portData = s.portData := rfl
@[simp] theorem State.succeed_epoch : (s.succeed).epoch = s.epoch := rfl
@[simp] theorem State.succeed_draws : (s.succeed).draws = s.draws := rfl

/-! ### endWith -/

@[simp] theorem State.endWith_fr (r : Raised) : (s.endWith r).fr = s.fr := rfl
@[simp] theorem State.endWith_plen (r : Raised) : (s.endWith r).plen = s.plen := rfl
@[simp] theorem State.endWith_bufLen (r : Raised) : (s.endWith r).bufLen = s.bufLen := rfl
@[simp] theorem State.endWith_txtLen (r : Raised) : (s.endWith r).txtLen = s.txtLen := rfl
@[simp] theorem State.endWith_cmd (r : Raised) : (s.endWith r).cmd = s.cmd := rfl
@[simp] theorem State.endWith_status (r : Raised) : (s.endWith r).status = statusEnd s.status r.cause := rfl
@[simp] theorem State.endWith_result (r : Raised) : (s.endWith r).result = r.cause.code := rfl
@[simp] theorem State.endWith_errExpected (r : Raised) : (s.endWith r).errExpected = BitVec.ofNat 16 r.expected := rfl
@[simp] theorem State.endWith_errActual (r : Raised) : (s.endWith r).errActual = BitVec.ofNat 16 r.actual := rfl
@[simp] theorem State.endWith_errState (r : Raised) : (s.endWith r).errState = 0#3 := rfl
@[simp] theorem State.endWith_consumed (r : Raised) : (s.endWith r).consumed = 0#9 := rfl
@[simp] theorem State.endWith_assoc (r : Raised) : (s.endWith r).assoc = s.assoc := rfl
@[simp] theorem State.endWith_phase (r : Raised) : (s.endWith r).phase = s.phase := rfl
@[simp] theorem State.endWith_retryCnt (r : Raised) : (s.endWith r).retryCnt = s.retryCnt := rfl
@[simp] theorem State.endWith_bcRequestId (r : Raised) : (s.endWith r).bcRequestId = s.bcRequestId := rfl
@[simp] theorem State.endWith_bcMsgType (r : Raised) : (s.endWith r).bcMsgType = s.bcMsgType := rfl
@[simp] theorem State.endWith_bcRoa (r : Raised) : (s.endWith r).bcRoa = s.bcRoa := rfl
@[simp] theorem State.endWith_bcFrom (r : Raised) : (s.endWith r).bcFrom = s.bcFrom := rfl
@[simp] theorem State.endWith_bcNetId (r : Raised) : (s.endWith r).bcNetId = s.bcNetId := rfl
@[simp] theorem State.endWith_cfg (r : Raised) : (s.endWith r).cfg = s.cfg := rfl
@[simp] theorem State.endWith_mem (r : Raised) : (s.endWith r).mem = s.mem := rfl
@[simp] theorem State.endWith_activity (r : Raised) : (s.endWith r).activity = .idle := rfl
@[simp] theorem State.endWith_outbound (r : Raised) : (s.endWith r).outbound = s.outbound := rfl
@[simp] theorem State.endWith_incoming (r : Raised) : (s.endWith r).incoming = s.incoming := rfl
@[simp] theorem State.endWith_link (r : Raised) : (s.endWith r).link = s.link := rfl
@[simp] theorem State.endWith_radioNetId (r : Raised) : (s.endWith r).radioNetId = s.radioNetId := rfl
@[simp] theorem State.endWith_radioStandby (r : Raised) : (s.endWith r).radioStandby = s.radioStandby := rfl
@[simp] theorem State.endWith_seen (r : Raised) : (s.endWith r).seen = s.seen := rfl
@[simp] theorem State.endWith_issued (r : Raised) : (s.endWith r).issued = s.issued := rfl
@[simp] theorem State.endWith_events (r : Raised) : (s.endWith r).events = s.events := rfl
@[simp] theorem State.endWith_portData (r : Raised) : (s.endWith r).portData = s.portData := rfl
@[simp] theorem State.endWith_epoch (r : Raised) : (s.endWith r).epoch = s.epoch := rfl
@[simp] theorem State.endWith_draws (r : Raised) : (s.endWith r).draws = s.draws := rfl

/-! ### failHandshake -/

@[simp] theorem State.failHandshake_fr (r : Raised) : (s.failHandshake r).fr = s.fr := rfl
@[simp] theorem State.failHandshake_plen (r : Raised) : (s.failHandshake r).plen = s.plen := rfl
@[simp] theorem State.failHandshake_bufLen (r : Raised) : (s.failHandshake r).bufLen = s.bufLen := rfl
@[simp] theorem State.failHandshake_txtLen (r : Raised) : (s.failHandshake r).txtLen = s.txtLen := rfl
@[simp] theorem State.failHandshake_cmd (r : Raised) : (s.failHandshake r).cmd = s.cmd := rfl
@[simp] theorem State.failHandshake_status (r : Raised) : (s.failHandshake r).status = statusEnd s.status r.cause := rfl
@[simp] theorem State.failHandshake_result (r : Raised) : (s.failHandshake r).result = r.cause.code := rfl
@[simp] theorem State.failHandshake_errExpected (r : Raised) : (s.failHandshake r).errExpected = BitVec.ofNat 16 r.expected := rfl
@[simp] theorem State.failHandshake_errActual (r : Raised) : (s.failHandshake r).errActual = BitVec.ofNat 16 r.actual := rfl
@[simp] theorem State.failHandshake_errState (r : Raised) : (s.failHandshake r).errState = assocCode s.assoc := rfl
@[simp] theorem State.failHandshake_consumed (r : Raised) : (s.failHandshake r).consumed = 0#9 := rfl
@[simp] theorem State.failHandshake_assoc (r : Raised) : (s.failHandshake r).assoc = .failed := rfl
@[simp] theorem State.failHandshake_phase (r : Raised) : (s.failHandshake r).phase = 0#2 := rfl
@[simp] theorem State.failHandshake_retryCnt (r : Raised) : (s.failHandshake r).retryCnt = s.retryCnt := rfl
@[simp] theorem State.failHandshake_bcRequestId (r : Raised) : (s.failHandshake r).bcRequestId = s.bcRequestId := rfl
@[simp] theorem State.failHandshake_bcMsgType (r : Raised) : (s.failHandshake r).bcMsgType = s.bcMsgType := rfl
@[simp] theorem State.failHandshake_bcRoa (r : Raised) : (s.failHandshake r).bcRoa = s.bcRoa := rfl
@[simp] theorem State.failHandshake_bcFrom (r : Raised) : (s.failHandshake r).bcFrom = s.bcFrom := rfl
@[simp] theorem State.failHandshake_bcNetId (r : Raised) : (s.failHandshake r).bcNetId = s.bcNetId := rfl
@[simp] theorem State.failHandshake_cfg (r : Raised) : (s.failHandshake r).cfg = s.cfg := rfl
@[simp] theorem State.failHandshake_mem (r : Raised) : (s.failHandshake r).mem = s.mem := rfl
@[simp] theorem State.failHandshake_activity (r : Raised) : (s.failHandshake r).activity = .idle := rfl
@[simp] theorem State.failHandshake_outbound (r : Raised) : (s.failHandshake r).outbound = s.outbound := rfl
@[simp] theorem State.failHandshake_incoming (r : Raised) : (s.failHandshake r).incoming = s.incoming := rfl
@[simp] theorem State.failHandshake_link (r : Raised) : (s.failHandshake r).link = s.link := rfl
@[simp] theorem State.failHandshake_radioNetId (r : Raised) : (s.failHandshake r).radioNetId = s.radioNetId := rfl
@[simp] theorem State.failHandshake_radioStandby (r : Raised) : (s.failHandshake r).radioStandby = s.radioStandby := rfl
@[simp] theorem State.failHandshake_seen (r : Raised) : (s.failHandshake r).seen = s.seen := rfl
@[simp] theorem State.failHandshake_issued (r : Raised) : (s.failHandshake r).issued = s.issued := rfl
@[simp] theorem State.failHandshake_events (r : Raised) : (s.failHandshake r).events = s.events := rfl
@[simp] theorem State.failHandshake_portData (r : Raised) : (s.failHandshake r).portData = s.portData := rfl
@[simp] theorem State.failHandshake_epoch (r : Raised) : (s.failHandshake r).epoch = s.epoch := rfl
@[simp] theorem State.failHandshake_draws (r : Raised) : (s.failHandshake r).draws = s.draws := rfl

/-! ### returnToIdle -/

@[simp] theorem State.returnToIdle_fr : (s.returnToIdle).fr = s.fr := rfl
@[simp] theorem State.returnToIdle_plen : (s.returnToIdle).plen = s.plen := rfl
@[simp] theorem State.returnToIdle_bufLen : (s.returnToIdle).bufLen = s.bufLen := rfl
@[simp] theorem State.returnToIdle_txtLen : (s.returnToIdle).txtLen = s.txtLen := rfl
@[simp] theorem State.returnToIdle_cmd : (s.returnToIdle).cmd = s.cmd := rfl
@[simp] theorem State.returnToIdle_status : (s.returnToIdle).status = s.status := rfl
@[simp] theorem State.returnToIdle_result : (s.returnToIdle).result = s.result := rfl
@[simp] theorem State.returnToIdle_errExpected : (s.returnToIdle).errExpected = s.errExpected := rfl
@[simp] theorem State.returnToIdle_errActual : (s.returnToIdle).errActual = s.errActual := rfl
@[simp] theorem State.returnToIdle_errState : (s.returnToIdle).errState = s.errState := rfl
@[simp] theorem State.returnToIdle_consumed : (s.returnToIdle).consumed = s.consumed := rfl
@[simp] theorem State.returnToIdle_assoc : (s.returnToIdle).assoc = .idle := rfl
@[simp] theorem State.returnToIdle_phase : (s.returnToIdle).phase = 0#2 := rfl
@[simp] theorem State.returnToIdle_retryCnt : (s.returnToIdle).retryCnt = 0#16 := rfl
@[simp] theorem State.returnToIdle_bcRequestId : (s.returnToIdle).bcRequestId = 0#16 := rfl
@[simp] theorem State.returnToIdle_bcMsgType : (s.returnToIdle).bcMsgType = 0#8 := rfl
@[simp] theorem State.returnToIdle_bcRoa : (s.returnToIdle).bcRoa = 0#8 := rfl
@[simp] theorem State.returnToIdle_bcFrom : (s.returnToIdle).bcFrom = 0#8 := rfl
@[simp] theorem State.returnToIdle_bcNetId : (s.returnToIdle).bcNetId = NetId.zero := rfl
@[simp] theorem State.returnToIdle_cfg : (s.returnToIdle).cfg = s.cfg := rfl
@[simp] theorem State.returnToIdle_mem : (s.returnToIdle).mem = s.mem := rfl
@[simp] theorem State.returnToIdle_activity : (s.returnToIdle).activity = s.activity := rfl
@[simp] theorem State.returnToIdle_outbound : (s.returnToIdle).outbound = s.outbound := rfl
@[simp] theorem State.returnToIdle_incoming : (s.returnToIdle).incoming = s.incoming := rfl
@[simp] theorem State.returnToIdle_link : (s.returnToIdle).link = s.link := rfl
@[simp] theorem State.returnToIdle_radioNetId : (s.returnToIdle).radioNetId = s.radioNetId := rfl
@[simp] theorem State.returnToIdle_radioStandby : (s.returnToIdle).radioStandby = s.radioStandby := rfl
@[simp] theorem State.returnToIdle_seen : (s.returnToIdle).seen = s.seen := rfl
@[simp] theorem State.returnToIdle_issued : (s.returnToIdle).issued = s.issued := rfl
@[simp] theorem State.returnToIdle_events : (s.returnToIdle).events = s.events := rfl
@[simp] theorem State.returnToIdle_portData : (s.returnToIdle).portData = s.portData := rfl
@[simp] theorem State.returnToIdle_epoch : (s.returnToIdle).epoch = s.epoch := rfl
@[simp] theorem State.returnToIdle_draws : (s.returnToIdle).draws = s.draws := rfl

/-! ### issue -/

@[simp] theorem State.issue_fr (c : Call) : (s.issue c).fr = s.fr := rfl
@[simp] theorem State.issue_plen (c : Call) : (s.issue c).plen = s.plen := rfl
@[simp] theorem State.issue_bufLen (c : Call) : (s.issue c).bufLen = s.bufLen := rfl
@[simp] theorem State.issue_txtLen (c : Call) : (s.issue c).txtLen = s.txtLen := rfl
@[simp] theorem State.issue_cmd (c : Call) : (s.issue c).cmd = s.cmd := rfl
@[simp] theorem State.issue_status (c : Call) : (s.issue c).status = s.status := rfl
@[simp] theorem State.issue_result (c : Call) : (s.issue c).result = s.result := rfl
@[simp] theorem State.issue_errExpected (c : Call) : (s.issue c).errExpected = s.errExpected := rfl
@[simp] theorem State.issue_errActual (c : Call) : (s.issue c).errActual = s.errActual := rfl
@[simp] theorem State.issue_errState (c : Call) : (s.issue c).errState = s.errState := rfl
@[simp] theorem State.issue_consumed (c : Call) : (s.issue c).consumed = s.consumed := rfl
@[simp] theorem State.issue_assoc (c : Call) : (s.issue c).assoc = s.assoc := rfl
@[simp] theorem State.issue_phase (c : Call) : (s.issue c).phase = s.phase := rfl
@[simp] theorem State.issue_retryCnt (c : Call) : (s.issue c).retryCnt = s.retryCnt := rfl
@[simp] theorem State.issue_bcRequestId (c : Call) : (s.issue c).bcRequestId = s.bcRequestId := rfl
@[simp] theorem State.issue_bcMsgType (c : Call) : (s.issue c).bcMsgType = s.bcMsgType := rfl
@[simp] theorem State.issue_bcRoa (c : Call) : (s.issue c).bcRoa = s.bcRoa := rfl
@[simp] theorem State.issue_bcFrom (c : Call) : (s.issue c).bcFrom = s.bcFrom := rfl
@[simp] theorem State.issue_bcNetId (c : Call) : (s.issue c).bcNetId = s.bcNetId := rfl
@[simp] theorem State.issue_cfg (c : Call) : (s.issue c).cfg = s.cfg := rfl
@[simp] theorem State.issue_mem (c : Call) : (s.issue c).mem = s.mem := rfl
@[simp] theorem State.issue_activity (c : Call) : (s.issue c).activity = .waiting c := rfl
@[simp] theorem State.issue_outbound (c : Call) : (s.issue c).outbound = s.outbound ++ [wireForm s.link s.cfg.hexUpper c] := rfl
@[simp] theorem State.issue_incoming (c : Call) : (s.issue c).incoming = s.incoming := rfl
@[simp] theorem State.issue_link (c : Call) : (s.issue c).link = s.link := rfl
@[simp] theorem State.issue_radioNetId (c : Call) : (s.issue c).radioNetId = s.radioNetId := rfl
@[simp] theorem State.issue_radioStandby (c : Call) : (s.issue c).radioStandby = s.radioStandby := rfl
@[simp] theorem State.issue_seen (c : Call) : (s.issue c).seen = s.seen := rfl
@[simp] theorem State.issue_issued (c : Call) : (s.issue c).issued = s.issued + 1 := rfl
@[simp] theorem State.issue_events (c : Call) : (s.issue c).events = s.events := rfl
@[simp] theorem State.issue_portData (c : Call) : (s.issue c).portData = s.portData := rfl
@[simp] theorem State.issue_epoch (c : Call) : (s.issue c).epoch = s.epoch := rfl
@[simp] theorem State.issue_draws (c : Call) : (s.issue c).draws = s.draws := rfl

/-! ### latchBroadcast -/

@[simp] theorem State.latchBroadcast_fr (f : Frame) : (s.latchBroadcast f).fr = s.fr := rfl
@[simp] theorem State.latchBroadcast_plen (f : Frame) : (s.latchBroadcast f).plen = s.plen := rfl
@[simp] theorem State.latchBroadcast_bufLen (f : Frame) : (s.latchBroadcast f).bufLen = s.bufLen := rfl
@[simp] theorem State.latchBroadcast_txtLen (f : Frame) : (s.latchBroadcast f).txtLen = s.txtLen := rfl
@[simp] theorem State.latchBroadcast_cmd (f : Frame) : (s.latchBroadcast f).cmd = s.cmd := rfl
@[simp] theorem State.latchBroadcast_status (f : Frame) : (s.latchBroadcast f).status = s.status := rfl
@[simp] theorem State.latchBroadcast_result (f : Frame) : (s.latchBroadcast f).result = s.result := rfl
@[simp] theorem State.latchBroadcast_errExpected (f : Frame) : (s.latchBroadcast f).errExpected = s.errExpected := rfl
@[simp] theorem State.latchBroadcast_errActual (f : Frame) : (s.latchBroadcast f).errActual = s.errActual := rfl
@[simp] theorem State.latchBroadcast_errState (f : Frame) : (s.latchBroadcast f).errState = s.errState := rfl
@[simp] theorem State.latchBroadcast_consumed (f : Frame) : (s.latchBroadcast f).consumed = s.consumed := rfl
@[simp] theorem State.latchBroadcast_assoc (f : Frame) : (s.latchBroadcast f).assoc = s.assoc := rfl
@[simp] theorem State.latchBroadcast_phase (f : Frame) : (s.latchBroadcast f).phase = s.phase := rfl
@[simp] theorem State.latchBroadcast_retryCnt (f : Frame) : (s.latchBroadcast f).retryCnt = s.retryCnt := rfl
@[simp] theorem State.latchBroadcast_bcRequestId (f : Frame) : (s.latchBroadcast f).bcRequestId = f.head.requestId := rfl
@[simp] theorem State.latchBroadcast_bcMsgType (f : Frame) : (s.latchBroadcast f).bcMsgType = f.head.msgType := rfl
@[simp] theorem State.latchBroadcast_bcRoa (f : Frame) : (s.latchBroadcast f).bcRoa = f.head.reqOrAnswer := rfl
@[simp] theorem State.latchBroadcast_bcFrom (f : Frame) : (s.latchBroadcast f).bcFrom = f.head.fromAddr := rfl
@[simp] theorem State.latchBroadcast_bcNetId (f : Frame) : (s.latchBroadcast f).bcNetId = (netIdOf (f.payload.drop 1)).getD s.bcNetId := rfl
@[simp] theorem State.latchBroadcast_cfg (f : Frame) : (s.latchBroadcast f).cfg = s.cfg := rfl
@[simp] theorem State.latchBroadcast_mem (f : Frame) : (s.latchBroadcast f).mem = s.mem := rfl
@[simp] theorem State.latchBroadcast_activity (f : Frame) : (s.latchBroadcast f).activity = s.activity := rfl
@[simp] theorem State.latchBroadcast_outbound (f : Frame) : (s.latchBroadcast f).outbound = s.outbound := rfl
@[simp] theorem State.latchBroadcast_incoming (f : Frame) : (s.latchBroadcast f).incoming = s.incoming := rfl
@[simp] theorem State.latchBroadcast_link (f : Frame) : (s.latchBroadcast f).link = s.link := rfl
@[simp] theorem State.latchBroadcast_radioNetId (f : Frame) : (s.latchBroadcast f).radioNetId = s.radioNetId := rfl
@[simp] theorem State.latchBroadcast_radioStandby (f : Frame) : (s.latchBroadcast f).radioStandby = s.radioStandby := rfl
@[simp] theorem State.latchBroadcast_seen (f : Frame) : (s.latchBroadcast f).seen = s.seen := rfl
@[simp] theorem State.latchBroadcast_issued (f : Frame) : (s.latchBroadcast f).issued = s.issued := rfl
@[simp] theorem State.latchBroadcast_events (f : Frame) : (s.latchBroadcast f).events = s.events := rfl
@[simp] theorem State.latchBroadcast_portData (f : Frame) : (s.latchBroadcast f).portData = s.portData := rfl
@[simp] theorem State.latchBroadcast_epoch (f : Frame) : (s.latchBroadcast f).epoch = s.epoch := rfl
@[simp] theorem State.latchBroadcast_draws (f : Frame) : (s.latchBroadcast f).draws = s.draws := rfl

/-! ### withEvents -/

@[simp] theorem State.withEvents_fr (es : List Event) : (s.withEvents es).fr = s.fr := rfl
@[simp] theorem State.withEvents_plen (es : List Event) : (s.withEvents es).plen = s.plen := rfl
@[simp] theorem State.withEvents_bufLen (es : List Event) : (s.withEvents es).bufLen = s.bufLen := rfl
@[simp] theorem State.withEvents_txtLen (es : List Event) : (s.withEvents es).txtLen = s.txtLen := rfl
@[simp] theorem State.withEvents_cmd (es : List Event) : (s.withEvents es).cmd = s.cmd := rfl
@[simp] theorem State.withEvents_status (es : List Event) : (s.withEvents es).status = s.status := rfl
@[simp] theorem State.withEvents_result (es : List Event) : (s.withEvents es).result = s.result := rfl
@[simp] theorem State.withEvents_errExpected (es : List Event) : (s.withEvents es).errExpected = s.errExpected := rfl
@[simp] theorem State.withEvents_errActual (es : List Event) : (s.withEvents es).errActual = s.errActual := rfl
@[simp] theorem State.withEvents_errState (es : List Event) : (s.withEvents es).errState = s.errState := rfl
@[simp] theorem State.withEvents_consumed (es : List Event) : (s.withEvents es).consumed = s.consumed := rfl
@[simp] theorem State.withEvents_assoc (es : List Event) : (s.withEvents es).assoc = s.assoc := rfl
@[simp] theorem State.withEvents_phase (es : List Event) : (s.withEvents es).phase = s.phase := rfl
@[simp] theorem State.withEvents_retryCnt (es : List Event) : (s.withEvents es).retryCnt = s.retryCnt := rfl
@[simp] theorem State.withEvents_bcRequestId (es : List Event) : (s.withEvents es).bcRequestId = s.bcRequestId := rfl
@[simp] theorem State.withEvents_bcMsgType (es : List Event) : (s.withEvents es).bcMsgType = s.bcMsgType := rfl
@[simp] theorem State.withEvents_bcRoa (es : List Event) : (s.withEvents es).bcRoa = s.bcRoa := rfl
@[simp] theorem State.withEvents_bcFrom (es : List Event) : (s.withEvents es).bcFrom = s.bcFrom := rfl
@[simp] theorem State.withEvents_bcNetId (es : List Event) : (s.withEvents es).bcNetId = s.bcNetId := rfl
@[simp] theorem State.withEvents_cfg (es : List Event) : (s.withEvents es).cfg = s.cfg := rfl
@[simp] theorem State.withEvents_mem (es : List Event) : (s.withEvents es).mem = s.mem := rfl
@[simp] theorem State.withEvents_activity (es : List Event) : (s.withEvents es).activity = s.activity := rfl
@[simp] theorem State.withEvents_outbound (es : List Event) : (s.withEvents es).outbound = s.outbound := rfl
@[simp] theorem State.withEvents_incoming (es : List Event) : (s.withEvents es).incoming = s.incoming := rfl
@[simp] theorem State.withEvents_link (es : List Event) : (s.withEvents es).link = s.link := rfl
@[simp] theorem State.withEvents_radioNetId (es : List Event) : (s.withEvents es).radioNetId = s.radioNetId := rfl
@[simp] theorem State.withEvents_radioStandby (es : List Event) : (s.withEvents es).radioStandby = s.radioStandby := rfl
@[simp] theorem State.withEvents_seen (es : List Event) : (s.withEvents es).seen = s.seen := rfl
@[simp] theorem State.withEvents_issued (es : List Event) : (s.withEvents es).issued = s.issued := rfl
@[simp] theorem State.withEvents_events (es : List Event) : (s.withEvents es).events = es := rfl
@[simp] theorem State.withEvents_portData (es : List Event) : (s.withEvents es).portData = s.portData := rfl
@[simp] theorem State.withEvents_epoch (es : List Event) : (s.withEvents es).epoch = s.epoch := rfl
@[simp] theorem State.withEvents_draws (es : List Event) : (s.withEvents es).draws = s.draws := rfl

/-! ### withOutbound -/

@[simp] theorem State.withOutbound_fr (ws : List WireItem) : (s.withOutbound ws).fr = s.fr := rfl
@[simp] theorem State.withOutbound_plen (ws : List WireItem) : (s.withOutbound ws).plen = s.plen := rfl
@[simp] theorem State.withOutbound_bufLen (ws : List WireItem) : (s.withOutbound ws).bufLen = s.bufLen := rfl
@[simp] theorem State.withOutbound_txtLen (ws : List WireItem) : (s.withOutbound ws).txtLen = s.txtLen := rfl
@[simp] theorem State.withOutbound_cmd (ws : List WireItem) : (s.withOutbound ws).cmd = s.cmd := rfl
@[simp] theorem State.withOutbound_status (ws : List WireItem) : (s.withOutbound ws).status = s.status := rfl
@[simp] theorem State.withOutbound_result (ws : List WireItem) : (s.withOutbound ws).result = s.result := rfl
@[simp] theorem State.withOutbound_errExpected (ws : List WireItem) : (s.withOutbound ws).errExpected = s.errExpected := rfl
@[simp] theorem State.withOutbound_errActual (ws : List WireItem) : (s.withOutbound ws).errActual = s.errActual := rfl
@[simp] theorem State.withOutbound_errState (ws : List WireItem) : (s.withOutbound ws).errState = s.errState := rfl
@[simp] theorem State.withOutbound_consumed (ws : List WireItem) : (s.withOutbound ws).consumed = s.consumed := rfl
@[simp] theorem State.withOutbound_assoc (ws : List WireItem) : (s.withOutbound ws).assoc = s.assoc := rfl
@[simp] theorem State.withOutbound_phase (ws : List WireItem) : (s.withOutbound ws).phase = s.phase := rfl
@[simp] theorem State.withOutbound_retryCnt (ws : List WireItem) : (s.withOutbound ws).retryCnt = s.retryCnt := rfl
@[simp] theorem State.withOutbound_bcRequestId (ws : List WireItem) : (s.withOutbound ws).bcRequestId = s.bcRequestId := rfl
@[simp] theorem State.withOutbound_bcMsgType (ws : List WireItem) : (s.withOutbound ws).bcMsgType = s.bcMsgType := rfl
@[simp] theorem State.withOutbound_bcRoa (ws : List WireItem) : (s.withOutbound ws).bcRoa = s.bcRoa := rfl
@[simp] theorem State.withOutbound_bcFrom (ws : List WireItem) : (s.withOutbound ws).bcFrom = s.bcFrom := rfl
@[simp] theorem State.withOutbound_bcNetId (ws : List WireItem) : (s.withOutbound ws).bcNetId = s.bcNetId := rfl
@[simp] theorem State.withOutbound_cfg (ws : List WireItem) : (s.withOutbound ws).cfg = s.cfg := rfl
@[simp] theorem State.withOutbound_mem (ws : List WireItem) : (s.withOutbound ws).mem = s.mem := rfl
@[simp] theorem State.withOutbound_activity (ws : List WireItem) : (s.withOutbound ws).activity = s.activity := rfl
@[simp] theorem State.withOutbound_outbound (ws : List WireItem) : (s.withOutbound ws).outbound = ws := rfl
@[simp] theorem State.withOutbound_incoming (ws : List WireItem) : (s.withOutbound ws).incoming = s.incoming := rfl
@[simp] theorem State.withOutbound_link (ws : List WireItem) : (s.withOutbound ws).link = s.link := rfl
@[simp] theorem State.withOutbound_radioNetId (ws : List WireItem) : (s.withOutbound ws).radioNetId = s.radioNetId := rfl
@[simp] theorem State.withOutbound_radioStandby (ws : List WireItem) : (s.withOutbound ws).radioStandby = s.radioStandby := rfl
@[simp] theorem State.withOutbound_seen (ws : List WireItem) : (s.withOutbound ws).seen = s.seen := rfl
@[simp] theorem State.withOutbound_issued (ws : List WireItem) : (s.withOutbound ws).issued = s.issued := rfl
@[simp] theorem State.withOutbound_events (ws : List WireItem) : (s.withOutbound ws).events = s.events := rfl
@[simp] theorem State.withOutbound_portData (ws : List WireItem) : (s.withOutbound ws).portData = s.portData := rfl
@[simp] theorem State.withOutbound_epoch (ws : List WireItem) : (s.withOutbound ws).epoch = s.epoch := rfl
@[simp] theorem State.withOutbound_draws (ws : List WireItem) : (s.withOutbound ws).draws = s.draws := rfl

/-! ### withIncoming -/

@[simp] theorem State.withIncoming_fr (cs : List Byte) : (s.withIncoming cs).fr = s.fr := rfl
@[simp] theorem State.withIncoming_plen (cs : List Byte) : (s.withIncoming cs).plen = s.plen := rfl
@[simp] theorem State.withIncoming_bufLen (cs : List Byte) : (s.withIncoming cs).bufLen = s.bufLen := rfl
@[simp] theorem State.withIncoming_txtLen (cs : List Byte) : (s.withIncoming cs).txtLen = s.txtLen := rfl
@[simp] theorem State.withIncoming_cmd (cs : List Byte) : (s.withIncoming cs).cmd = s.cmd := rfl
@[simp] theorem State.withIncoming_status (cs : List Byte) : (s.withIncoming cs).status = s.status := rfl
@[simp] theorem State.withIncoming_result (cs : List Byte) : (s.withIncoming cs).result = s.result := rfl
@[simp] theorem State.withIncoming_errExpected (cs : List Byte) : (s.withIncoming cs).errExpected = s.errExpected := rfl
@[simp] theorem State.withIncoming_errActual (cs : List Byte) : (s.withIncoming cs).errActual = s.errActual := rfl
@[simp] theorem State.withIncoming_errState (cs : List Byte) : (s.withIncoming cs).errState = s.errState := rfl
@[simp] theorem State.withIncoming_consumed (cs : List Byte) : (s.withIncoming cs).consumed = s.consumed := rfl
@[simp] theorem State.withIncoming_assoc (cs : List Byte) : (s.withIncoming cs).assoc = s.assoc := rfl
@[simp] theorem State.withIncoming_phase (cs : List Byte) : (s.withIncoming cs).phase = s.phase := rfl
@[simp] theorem State.withIncoming_retryCnt (cs : List Byte) : (s.withIncoming cs).retryCnt = s.retryCnt := rfl
@[simp] theorem State.withIncoming_bcRequestId (cs : List Byte) : (s.withIncoming cs).bcRequestId = s.bcRequestId := rfl
@[simp] theorem State.withIncoming_bcMsgType (cs : List Byte) : (s.withIncoming cs).bcMsgType = s.bcMsgType := rfl
@[simp] theorem State.withIncoming_bcRoa (cs : List Byte) : (s.withIncoming cs).bcRoa = s.bcRoa := rfl
@[simp] theorem State.withIncoming_bcFrom (cs : List Byte) : (s.withIncoming cs).bcFrom = s.bcFrom := rfl
@[simp] theorem State.withIncoming_bcNetId (cs : List Byte) : (s.withIncoming cs).bcNetId = s.bcNetId := rfl
@[simp] theorem State.withIncoming_cfg (cs : List Byte) : (s.withIncoming cs).cfg = s.cfg := rfl
@[simp] theorem State.withIncoming_mem (cs : List Byte) : (s.withIncoming cs).mem = s.mem := rfl
@[simp] theorem State.withIncoming_activity (cs : List Byte) : (s.withIncoming cs).activity = s.activity := rfl
@[simp] theorem State.withIncoming_outbound (cs : List Byte) : (s.withIncoming cs).outbound = s.outbound := rfl
@[simp] theorem State.withIncoming_incoming (cs : List Byte) : (s.withIncoming cs).incoming = cs := rfl
@[simp] theorem State.withIncoming_link (cs : List Byte) : (s.withIncoming cs).link = s.link := rfl
@[simp] theorem State.withIncoming_radioNetId (cs : List Byte) : (s.withIncoming cs).radioNetId = s.radioNetId := rfl
@[simp] theorem State.withIncoming_radioStandby (cs : List Byte) : (s.withIncoming cs).radioStandby = s.radioStandby := rfl
@[simp] theorem State.withIncoming_seen (cs : List Byte) : (s.withIncoming cs).seen = s.seen := rfl
@[simp] theorem State.withIncoming_issued (cs : List Byte) : (s.withIncoming cs).issued = s.issued := rfl
@[simp] theorem State.withIncoming_events (cs : List Byte) : (s.withIncoming cs).events = s.events := rfl
@[simp] theorem State.withIncoming_portData (cs : List Byte) : (s.withIncoming cs).portData = s.portData := rfl
@[simp] theorem State.withIncoming_epoch (cs : List Byte) : (s.withIncoming cs).epoch = s.epoch := rfl
@[simp] theorem State.withIncoming_draws (cs : List Byte) : (s.withIncoming cs).draws = s.draws := rfl

/-! ### enterConfirming -/

@[simp] theorem State.enterConfirming_fr : (s.enterConfirming).fr = s.fr := rfl
@[simp] theorem State.enterConfirming_plen : (s.enterConfirming).plen = s.plen := rfl
@[simp] theorem State.enterConfirming_bufLen : (s.enterConfirming).bufLen = s.bufLen := rfl
@[simp] theorem State.enterConfirming_txtLen : (s.enterConfirming).txtLen = s.txtLen := rfl
@[simp] theorem State.enterConfirming_cmd : (s.enterConfirming).cmd = s.cmd := rfl
@[simp] theorem State.enterConfirming_status : (s.enterConfirming).status = s.status := rfl
@[simp] theorem State.enterConfirming_result : (s.enterConfirming).result = s.result := rfl
@[simp] theorem State.enterConfirming_errExpected : (s.enterConfirming).errExpected = s.errExpected := rfl
@[simp] theorem State.enterConfirming_errActual : (s.enterConfirming).errActual = s.errActual := rfl
@[simp] theorem State.enterConfirming_errState : (s.enterConfirming).errState = s.errState := rfl
@[simp] theorem State.enterConfirming_consumed : (s.enterConfirming).consumed = s.consumed := rfl
@[simp] theorem State.enterConfirming_assoc : (s.enterConfirming).assoc = .confirming := rfl
@[simp] theorem State.enterConfirming_phase : (s.enterConfirming).phase = 0#2 := rfl
@[simp] theorem State.enterConfirming_retryCnt : (s.enterConfirming).retryCnt = 0#16 := rfl
@[simp] theorem State.enterConfirming_bcRequestId : (s.enterConfirming).bcRequestId = s.bcRequestId := rfl
@[simp] theorem State.enterConfirming_bcMsgType : (s.enterConfirming).bcMsgType = s.bcMsgType := rfl
@[simp] theorem State.enterConfirming_bcRoa : (s.enterConfirming).bcRoa = s.bcRoa := rfl
@[simp] theorem State.enterConfirming_bcFrom : (s.enterConfirming).bcFrom = s.bcFrom := rfl
@[simp] theorem State.enterConfirming_bcNetId : (s.enterConfirming).bcNetId = s.bcNetId := rfl
@[simp] theorem State.enterConfirming_cfg : (s.enterConfirming).cfg = s.cfg := rfl
@[simp] theorem State.enterConfirming_mem : (s.enterConfirming).mem = s.mem := rfl
@[simp] theorem State.enterConfirming_activity : (s.enterConfirming).activity = s.activity := rfl
@[simp] theorem State.enterConfirming_outbound : (s.enterConfirming).outbound = s.outbound := rfl
@[simp] theorem State.enterConfirming_incoming : (s.enterConfirming).incoming = s.incoming := rfl
@[simp] theorem State.enterConfirming_link : (s.enterConfirming).link = s.link := rfl
@[simp] theorem State.enterConfirming_radioNetId : (s.enterConfirming).radioNetId = s.radioNetId := rfl
@[simp] theorem State.enterConfirming_radioStandby : (s.enterConfirming).radioStandby = s.radioStandby := rfl
@[simp] theorem State.enterConfirming_seen : (s.enterConfirming).seen = s.seen := rfl
@[simp] theorem State.enterConfirming_issued : (s.enterConfirming).issued = s.issued := rfl
@[simp] theorem State.enterConfirming_events : (s.enterConfirming).events = s.events := rfl
@[simp] theorem State.enterConfirming_portData : (s.enterConfirming).portData = s.portData := rfl
@[simp] theorem State.enterConfirming_epoch : (s.enterConfirming).epoch = s.epoch := rfl
@[simp] theorem State.enterConfirming_draws : (s.enterConfirming).draws = s.draws := rfl

/-! ### Transport taking a call: only the radio, the trace and the draw counter change -/

@[simp] theorem State.disturbRadio_fr : (s.disturbRadio).fr = s.fr := by
  unfold State.disturbRadio; split <;> rfl
@[simp] theorem State.disturbRadio_plen : (s.disturbRadio).plen = s.plen := by
  unfold State.disturbRadio; split <;> rfl
@[simp] theorem State.disturbRadio_bufLen : (s.disturbRadio).bufLen = s.bufLen := by
  unfold State.disturbRadio; split <;> rfl
@[simp] theorem State.disturbRadio_txtLen : (s.disturbRadio).txtLen = s.txtLen := by
  unfold State.disturbRadio; split <;> rfl
@[simp] theorem State.disturbRadio_cmd : (s.disturbRadio).cmd = s.cmd := by
  unfold State.disturbRadio; split <;> rfl
@[simp] theorem State.disturbRadio_status : (s.disturbRadio).status = s.status := by
  unfold State.disturbRadio; split <;> rfl
@[simp] theorem State.disturbRadio_result : (s.disturbRadio).result = s.result := by
  unfold State.disturbRadio; split <;> rfl
@[simp] theorem State.disturbRadio_errExpected : (s.disturbRadio).errExpected = s.errExpected := by
  unfold State.disturbRadio; split <;> rfl
@[simp] theorem State.disturbRadio_errActual : (s.disturbRadio).errActual = s.errActual := by
  unfold State.disturbRadio; split <;> rfl
@[simp] theorem State.disturbRadio_errState : (s.disturbRadio).errState = s.errState := by
  unfold State.disturbRadio; split <;> rfl
@[simp] theorem State.disturbRadio_consumed : (s.disturbRadio).consumed = s.consumed := by
  unfold State.disturbRadio; split <;> rfl
@[simp] theorem State.disturbRadio_assoc : (s.disturbRadio).assoc = s.assoc := by
  unfold State.disturbRadio; split <;> rfl
@[simp] theorem State.disturbRadio_phase : (s.disturbRadio).phase = s.phase := by
  unfold State.disturbRadio; split <;> rfl
@[simp] theorem State.disturbRadio_retryCnt : (s.disturbRadio).retryCnt = s.retryCnt := by
  unfold State.disturbRadio; split <;> rfl
@[simp] theorem State.disturbRadio_bcRequestId : (s.disturbRadio).bcRequestId = s.bcRequestId := by
  unfold State.disturbRadio; split <;> rfl
@[simp] theorem State.disturbRadio_bcMsgType : (s.disturbRadio).bcMsgType = s.bcMsgType := by
  unfold State.disturbRadio; split <;> rfl
@[simp] theorem State.disturbRadio_bcRoa : (s.disturbRadio).bcRoa = s.bcRoa := by
  unfold State.disturbRadio; split <;> rfl
@[simp] theorem State.disturbRadio_bcFrom : (s.disturbRadio).bcFrom = s.bcFrom := by
  unfold State.disturbRadio; split <;> rfl
@[simp] theorem State.disturbRadio_bcNetId : (s.disturbRadio).bcNetId = s.bcNetId := by
  unfold State.disturbRadio; split <;> rfl
@[simp] theorem State.disturbRadio_cfg : (s.disturbRadio).cfg = s.cfg := by
  unfold State.disturbRadio; split <;> rfl
@[simp] theorem State.disturbRadio_mem : (s.disturbRadio).mem = s.mem := by
  unfold State.disturbRadio; split <;> rfl
@[simp] theorem State.disturbRadio_activity : (s.disturbRadio).activity = s.activity := by
  unfold State.disturbRadio; split <;> rfl
@[simp] theorem State.disturbRadio_outbound : (s.disturbRadio).outbound = s.outbound := by
  unfold State.disturbRadio; split <;> rfl
@[simp] theorem State.disturbRadio_incoming : (s.disturbRadio).incoming = s.incoming := by
  unfold State.disturbRadio; split <;> rfl
@[simp] theorem State.disturbRadio_link : (s.disturbRadio).link = s.link := by
  unfold State.disturbRadio; split <;> rfl
@[simp] theorem State.disturbRadio_seen : (s.disturbRadio).seen = s.seen := by
  unfold State.disturbRadio; split <;> rfl
@[simp] theorem State.disturbRadio_issued : (s.disturbRadio).issued = s.issued := by
  unfold State.disturbRadio; split <;> rfl
@[simp] theorem State.disturbRadio_events : (s.disturbRadio).events = s.events := by
  unfold State.disturbRadio; split <;> rfl
@[simp] theorem State.disturbRadio_portData : (s.disturbRadio).portData = s.portData := by
  unfold State.disturbRadio; split <;> rfl
@[simp] theorem State.disturbRadio_epoch : (s.disturbRadio).epoch = s.epoch := by
  unfold State.disturbRadio; split <;> rfl
@[simp] theorem State.takeCall_fr (c : Call) : (s.takeCall c).fr = s.fr := by
  cases c <;> simp [State.takeCall]
@[simp] theorem State.takeCall_plen (c : Call) : (s.takeCall c).plen = s.plen := by
  cases c <;> simp [State.takeCall]
@[simp] theorem State.takeCall_bufLen (c : Call) : (s.takeCall c).bufLen = s.bufLen := by
  cases c <;> simp [State.takeCall]
@[simp] theorem State.takeCall_txtLen (c : Call) : (s.takeCall c).txtLen = s.txtLen := by
  cases c <;> simp [State.takeCall]
@[simp] theorem State.takeCall_cmd (c : Call) : (s.takeCall c).cmd = s.cmd := by
  cases c <;> simp [State.takeCall]
@[simp] theorem State.takeCall_status (c : Call) : (s.takeCall c).status = s.status := by
  cases c <;> simp [State.takeCall]
@[simp] theorem State.takeCall_result (c : Call) : (s.takeCall c).result = s.result := by
  cases c <;> simp [State.takeCall]
@[simp] theorem State.takeCall_errExpected (c : Call) : (s.takeCall c).errExpected = s.errExpected := by
  cases c <;> simp [State.takeCall]
@[simp] theorem State.takeCall_errActual (c : Call) : (s.takeCall c).errActual = s.errActual := by
  cases c <;> simp [State.takeCall]
@[simp] theorem State.takeCall_errState (c : Call) : (s.takeCall c).errState = s.errState := by
  cases c <;> simp [State.takeCall]
@[simp] theorem State.takeCall_consumed (c : Call) : (s.takeCall c).consumed = s.consumed := by
  cases c <;> simp [State.takeCall]
@[simp] theorem State.takeCall_assoc (c : Call) : (s.takeCall c).assoc = s.assoc := by
  cases c <;> simp [State.takeCall]
@[simp] theorem State.takeCall_phase (c : Call) : (s.takeCall c).phase = s.phase := by
  cases c <;> simp [State.takeCall]
@[simp] theorem State.takeCall_retryCnt (c : Call) : (s.takeCall c).retryCnt = s.retryCnt := by
  cases c <;> simp [State.takeCall]
@[simp] theorem State.takeCall_bcRequestId (c : Call) : (s.takeCall c).bcRequestId = s.bcRequestId := by
  cases c <;> simp [State.takeCall]
@[simp] theorem State.takeCall_bcMsgType (c : Call) : (s.takeCall c).bcMsgType = s.bcMsgType := by
  cases c <;> simp [State.takeCall]
@[simp] theorem State.takeCall_bcRoa (c : Call) : (s.takeCall c).bcRoa = s.bcRoa := by
  cases c <;> simp [State.takeCall]
@[simp] theorem State.takeCall_bcFrom (c : Call) : (s.takeCall c).bcFrom = s.bcFrom := by
  cases c <;> simp [State.takeCall]
@[simp] theorem State.takeCall_bcNetId (c : Call) : (s.takeCall c).bcNetId = s.bcNetId := by
  cases c <;> simp [State.takeCall]
@[simp] theorem State.takeCall_cfg (c : Call) : (s.takeCall c).cfg = s.cfg := by
  cases c <;> simp [State.takeCall]
@[simp] theorem State.takeCall_mem (c : Call) : (s.takeCall c).mem = s.mem := by
  cases c <;> simp [State.takeCall]
@[simp] theorem State.takeCall_activity (c : Call) : (s.takeCall c).activity = s.activity := by
  cases c <;> simp [State.takeCall]
@[simp] theorem State.takeCall_outbound (c : Call) : (s.takeCall c).outbound = s.outbound := by
  cases c <;> simp [State.takeCall]
@[simp] theorem State.takeCall_incoming (c : Call) : (s.takeCall c).incoming = s.incoming := by
  cases c <;> simp [State.takeCall]
@[simp] theorem State.takeCall_link (c : Call) : (s.takeCall c).link = s.link := by
  cases c <;> simp [State.takeCall]
@[simp] theorem State.takeCall_seen (c : Call) : (s.takeCall c).seen = s.seen ++ [c] := by
  cases c <;> simp [State.takeCall]
@[simp] theorem State.takeCall_issued (c : Call) : (s.takeCall c).issued = s.issued := by
  cases c <;> simp [State.takeCall]
@[simp] theorem State.takeCall_events (c : Call) : (s.takeCall c).events = s.events := by
  cases c <;> simp [State.takeCall]
@[simp] theorem State.takeCall_portData (c : Call) : (s.takeCall c).portData = s.portData := by
  cases c <;> simp [State.takeCall]
@[simp] theorem State.takeCall_epoch (c : Call) : (s.takeCall c).epoch = s.epoch := by
  cases c <;> simp [State.takeCall]
@[simp] theorem State.radioAfterErr_fr (c : Call) : (s.radioAfterErr c).fr = s.fr := by
  cases c <;> rfl
@[simp] theorem State.radioAfterErr_plen (c : Call) : (s.radioAfterErr c).plen = s.plen := by
  cases c <;> rfl
@[simp] theorem State.radioAfterErr_bufLen (c : Call) : (s.radioAfterErr c).bufLen = s.bufLen := by
  cases c <;> rfl
@[simp] theorem State.radioAfterErr_txtLen (c : Call) : (s.radioAfterErr c).txtLen = s.txtLen := by
  cases c <;> rfl
@[simp] theorem State.radioAfterErr_cmd (c : Call) : (s.radioAfterErr c).cmd = s.cmd := by
  cases c <;> rfl
@[simp] theorem State.radioAfterErr_status (c : Call) : (s.radioAfterErr c).status = s.status := by
  cases c <;> rfl
@[simp] theorem State.radioAfterErr_result (c : Call) : (s.radioAfterErr c).result = s.result := by
  cases c <;> rfl
@[simp] theorem State.radioAfterErr_errExpected (c : Call) : (s.radioAfterErr c).errExpected = s.errExpected := by
  cases c <;> rfl
@[simp] theorem State.radioAfterErr_errActual (c : Call) : (s.radioAfterErr c).errActual = s.errActual := by
  cases c <;> rfl
@[simp] theorem State.radioAfterErr_errState (c : Call) : (s.radioAfterErr c).errState = s.errState := by
  cases c <;> rfl
@[simp] theorem State.radioAfterErr_consumed (c : Call) : (s.radioAfterErr c).consumed = s.consumed := by
  cases c <;> rfl
@[simp] theorem State.radioAfterErr_assoc (c : Call) : (s.radioAfterErr c).assoc = s.assoc := by
  cases c <;> rfl
@[simp] theorem State.radioAfterErr_phase (c : Call) : (s.radioAfterErr c).phase = s.phase := by
  cases c <;> rfl
@[simp] theorem State.radioAfterErr_retryCnt (c : Call) : (s.radioAfterErr c).retryCnt = s.retryCnt := by
  cases c <;> rfl
@[simp] theorem State.radioAfterErr_bcRequestId (c : Call) : (s.radioAfterErr c).bcRequestId = s.bcRequestId := by
  cases c <;> rfl
@[simp] theorem State.radioAfterErr_bcMsgType (c : Call) : (s.radioAfterErr c).bcMsgType = s.bcMsgType := by
  cases c <;> rfl
@[simp] theorem State.radioAfterErr_bcRoa (c : Call) : (s.radioAfterErr c).bcRoa = s.bcRoa := by
  cases c <;> rfl
@[simp] theorem State.radioAfterErr_bcFrom (c : Call) : (s.radioAfterErr c).bcFrom = s.bcFrom := by
  cases c <;> rfl
@[simp] theorem State.radioAfterErr_bcNetId (c : Call) : (s.radioAfterErr c).bcNetId = s.bcNetId := by
  cases c <;> rfl
@[simp] theorem State.radioAfterErr_cfg (c : Call) : (s.radioAfterErr c).cfg = s.cfg := by
  cases c <;> rfl
@[simp] theorem State.radioAfterErr_mem (c : Call) : (s.radioAfterErr c).mem = s.mem := by
  cases c <;> rfl
@[simp] theorem State.radioAfterErr_activity (c : Call) : (s.radioAfterErr c).activity = s.activity := by
  cases c <;> rfl
@[simp] theorem State.radioAfterErr_outbound (c : Call) : (s.radioAfterErr c).outbound = s.outbound := by
  cases c <;> rfl
@[simp] theorem State.radioAfterErr_incoming (c : Call) : (s.radioAfterErr c).incoming = s.incoming := by
  cases c <;> rfl
@[simp] theorem State.radioAfterErr_link (c : Call) : (s.radioAfterErr c).link = s.link := by
  cases c <;> rfl
@[simp] theorem State.radioAfterErr_seen (c : Call) : (s.radioAfterErr c).seen = s.seen := by
  cases c <;> rfl
@[simp] theorem State.radioAfterErr_issued (c : Call) : (s.radioAfterErr c).issued = s.issued := by
  cases c <;> rfl
@[simp] theorem State.radioAfterErr_events (c : Call) : (s.radioAfterErr c).events = s.events := by
  cases c <;> rfl
@[simp] theorem State.radioAfterErr_portData (c : Call) : (s.radioAfterErr c).portData = s.portData := by
  cases c <;> rfl
@[simp] theorem State.radioAfterErr_epoch (c : Call) : (s.radioAfterErr c).epoch = s.epoch := by
  cases c <;> rfl

/-! ### What moving the script or the link does not change -/

@[simp] theorem State.withEvents_busy (es : List Event) : (s.withEvents es).busy = s.busy := rfl
@[simp] theorem State.withEvents_handshake (es : List Event) : (s.withEvents es).handshake = s.handshake := rfl
@[simp] theorem State.withEvents_family (es : List Event) : (s.withEvents es).family = s.family := rfl
@[simp] theorem State.withEvents_flagOffset (es : List Event) : (s.withEvents es).flagOffset = s.flagOffset := rfl
@[simp] theorem State.withEvents_vFlags (es : List Event) : (s.withEvents es).vFlags = s.vFlags := rfl
@[simp] theorem State.withOutbound_busy (ws : List WireItem) : (s.withOutbound ws).busy = s.busy := rfl
@[simp] theorem State.withOutbound_handshake (ws : List WireItem) : (s.withOutbound ws).handshake = s.handshake := rfl
@[simp] theorem State.withOutbound_family (ws : List WireItem) : (s.withOutbound ws).family = s.family := rfl
@[simp] theorem State.withOutbound_flagOffset (ws : List WireItem) : (s.withOutbound ws).flagOffset = s.flagOffset := rfl
@[simp] theorem State.withOutbound_vFlags (ws : List WireItem) : (s.withOutbound ws).vFlags = s.vFlags := rfl
@[simp] theorem State.withIncoming_busy (cs : List Byte) : (s.withIncoming cs).busy = s.busy := rfl
@[simp] theorem State.withIncoming_handshake (cs : List Byte) : (s.withIncoming cs).handshake = s.handshake := rfl
@[simp] theorem State.withIncoming_family (cs : List Byte) : (s.withIncoming cs).family = s.family := rfl
@[simp] theorem State.withIncoming_flagOffset (cs : List Byte) : (s.withIncoming cs).flagOffset = s.flagOffset := rfl
@[simp] theorem State.withIncoming_vFlags (cs : List Byte) : (s.withIncoming cs).vFlags = s.vFlags := rfl
@[simp] theorem State.withEvents_awaitsFrame (es : List Event) : (s.withEvents es).awaitsFrame = s.awaitsFrame := rfl
@[simp] theorem State.withEvents_answersLast (es : List Event) (n : Nat) : (s.withEvents es).answersLast n = s.answersLast n := rfl
@[simp] theorem State.withIncoming_awaitsFrame (cs : List Byte) : (s.withIncoming cs).awaitsFrame = s.awaitsFrame := rfl
@[simp] theorem State.withIncoming_answersLast (cs : List Byte) (n : Nat) : (s.withIncoming cs).answersLast n = s.answersLast n := rfl

end Sys2Proof.Machine
end

