-- ==== Sys2Proof/Laws/Memory.lean ====
section
/-! SUPPORT. The laws of memory: read after write, every other address left alone, the canonical form kept by every
operation, and what a buffer reads back as. -/

namespace Sys2Proof.Machine

/-! ### Reading -/

theorem Memory.read_append (m n : List Host.Cell) (a : Nat) :
    Memory.read (m ++ n) a = (Memory.read m a).or (Memory.read n a) := by
  induction m with
  | nil => simp [Memory.read]
  | cons c m ih =>
    simp only [List.cons_append, Memory.read]
    split
    · simp
    · exact ih

theorem Memory.read_filter (m : List Host.Cell) (p : Nat → Bool) (a : Nat) :
    Memory.read (m.filter (fun c => p c.1)) a = if p a then Memory.read m a else none := by
  induction m with
  | nil => simp [Memory.read]
  | cons c m ih =>
    by_cases hp : p c.1 = true
    · simp only [List.filter_cons, hp, if_true, Memory.read, ih]
      by_cases hc : c.1 = a
      · simp [hc, hc ▸ hp]
      · simp [hc]
    · simp only [List.filter_cons, hp, if_false, Memory.read, ih, Bool.false_eq_true]
      by_cases hc : c.1 = a
      · simp [hc ▸ hp]
      · simp [hc]

theorem Memory.read_cells (base : Nat) (bytes : List Byte) (a : Nat) :
    Memory.read (Memory.cells base bytes) a = if base ≤ a then bytes[a - base]? else none := by
  induction bytes generalizing base with
  | nil => simp [Memory.cells, Memory.read]
  | cons b bs ih =>
    simp only [Memory.cells, Memory.read, ih]
    rcases Nat.lt_trichotomy base a with h | h | h
    · have h1 : a - base = (a - (base + 1)) + 1 := by omega
      simp [Nat.ne_of_lt h, Nat.le_of_lt h, show base + 1 ≤ a from h, h1]
    · simp [h]
    · simp [Nat.ne_of_gt h, show ¬ base ≤ a by omega, show ¬ base + 1 ≤ a by omega]

/-- Read after write: the written bytes inside the written range, and what was there before outside it. -/
theorem Memory.read_write (m : List Host.Cell) (base : Nat) (bytes : List Byte) (a : Nat) :
    Memory.read (Memory.write m base bytes) a =
      if base ≤ a ∧ a < base + bytes.length then bytes[a - base]? else Memory.read m a := by
  have e1 := Memory.read_filter m (fun x => decide (x < base)) a
  have e2 := Memory.read_filter m (fun x => decide (base + bytes.length ≤ x)) a
  simp only [Memory.write, Memory.read_append, Memory.read_cells, e1, e2]
  by_cases h1 : a < base
  · have h2 : ¬ (base + bytes.length ≤ a) := by omega
    have h3 : ¬ (base ≤ a) := by omega
    simp [h1, h2, h3]
  · by_cases h2 : base + bytes.length ≤ a
    · have h3 : ¬ (base ≤ a ∧ a < base + bytes.length) := by omega
      have h4 : bytes[a - base]? = none := by simp; omega
      simp [h1, h2, h4]
    · have h3 : base ≤ a ∧ a < base + bytes.length := by omega
      simp [h1, h2, h3]

theorem Memory.read_write_outside (m : List Host.Cell) (base : Nat) (bytes : List Byte) (a : Nat)
    (h : a < base ∨ base + bytes.length ≤ a) : Memory.read (Memory.write m base bytes) a = Memory.read m a := by
  rw [Memory.read_write, if_neg (by omega)]

theorem Memory.read_write_inside (m : List Host.Cell) (base : Nat) (bytes : List Byte) (i : Nat)
    (h : i < bytes.length) : Memory.read (Memory.write m base bytes) (base + i) = some bytes[i] := by
  rw [Memory.read_write, if_pos (by omega)]
  simp [h]

/-! ### The canonical form -/

theorem Memory.rising_append (m n : List Host.Cell) :
    Memory.rising (m ++ n) = true ↔
      Memory.rising m = true ∧ Memory.rising n = true ∧ ∀ c ∈ m, ∀ d ∈ n, c.1 < d.1 := by
  induction m with
  | nil => simp [Memory.rising]
  | cons c m ih =>
    simp only [List.cons_append, Memory.rising, Bool.and_eq_true, ih, List.all_append, List.all_eq_true,
      decide_eq_true_eq, List.mem_cons, forall_eq_or_imp]
    constructor
    · rintro ⟨⟨h1, h2⟩, h3, h4, h5⟩; exact ⟨⟨h1, h3⟩, h4, h2, h5⟩
    · rintro ⟨⟨h1, h3⟩, h4, h2, h5⟩; exact ⟨⟨h1, h2⟩, h3, h4, h5⟩

theorem Memory.rising_filter (m : List Host.Cell) (p : Host.Cell → Bool) (h : Memory.rising m = true) :
    Memory.rising (m.filter p) = true := by
  induction m with
  | nil => rfl
  | cons c m ih =>
    simp only [Memory.rising, Bool.and_eq_true, List.all_eq_true, decide_eq_true_eq] at h
    by_cases hp : p c = true
    · simp only [List.filter_cons, hp, if_true, Memory.rising, Bool.and_eq_true, List.all_eq_true, decide_eq_true_eq,
        List.mem_filter]
      exact ⟨fun d hd => h.1 d hd.1, ih h.2⟩
    · simpa [List.filter_cons, hp] using ih h.2

theorem Memory.mem_cells (base : Nat) (bytes : List Byte) (c : Host.Cell) (h : c ∈ Memory.cells base bytes) :
    base ≤ c.1 ∧ c.1 < base + bytes.length := by
  induction bytes generalizing base with
  | nil => simp [Memory.cells] at h
  | cons b bs ih =>
    simp only [Memory.cells, List.mem_cons] at h
    rcases h with rfl | h
    · simp
    · have := ih _ h; simp only [List.length_cons]; omega

theorem Memory.rising_cells (base : Nat) (bytes : List Byte) : Memory.rising (Memory.cells base bytes) = true := by
  induction bytes generalizing base with
  | nil => rfl
  | cons b bs ih =>
    simp only [Memory.cells, Memory.rising, Bool.and_eq_true, List.all_eq_true, decide_eq_true_eq, ih, and_true]
    intro d hd
    have := Memory.mem_cells _ _ _ hd
    omega

/-- A write whose addresses are array elements keeps the canonical form. -/
theorem Memory.write_wf (m : List Host.Cell) (base : Nat) (bytes : List Byte) (h : Memory.wf m = true)
    (hin : ∀ i, i < bytes.length → inArray (base + i) = true) : Memory.wf (Memory.write m base bytes) = true := by
  simp only [Memory.wf, Bool.and_eq_true, List.all_eq_true] at h ⊢
  obtain ⟨hr, ha⟩ := h
  constructor
  · rw [Memory.write, Memory.rising_append, Memory.rising_append]
    refine ⟨Memory.rising_filter _ _ hr, ⟨Memory.rising_cells _ _, Memory.rising_filter _ _ hr, ?_⟩, ?_⟩
    · intro c hc d hd
      have h1 := Memory.mem_cells _ _ _ hc
      simp only [List.mem_filter, decide_eq_true_eq] at hd
      omega
    · intro c hc d hd
      simp only [List.mem_filter, decide_eq_true_eq] at hc
      simp only [List.mem_append, List.mem_filter, decide_eq_true_eq] at hd
      rcases hd with hd | hd
      · have := Memory.mem_cells _ _ _ hd; omega
      · omega
  · intro c hc
    simp only [Memory.write, List.mem_append, List.mem_filter] at hc
    rcases hc with hc | hc | hc
    · exact ha c hc.1
    · have h1 := Memory.mem_cells _ _ _ hc
      have := hin (c.1 - base) (by omega)
      rwa [show base + (c.1 - base) = c.1 by omega] at this
    · exact ha c hc.1

theorem inArray_payload (i : Nat) (h : i < payloadSize) : inArray (payloadBase + i) = true := by
  have h' : i < 249 := h
  simp [inArray, payloadBase, bufBase, txtBase, annBase, tempBase, payloadSize, bufSize, txtSize]
  omega

theorem inArray_buf (i : Nat) (h : i < bufSize) : inArray (bufBase + i) = true := by
  have h' : i < 256 := h
  simp [inArray, payloadBase, bufBase, txtBase, annBase, tempBase, payloadSize, bufSize, txtSize]
  omega

theorem inArray_txt (i : Nat) (h : i < txtSize) : inArray (txtBase + i) = true := by
  have h' : i < 512 := h
  simp [inArray, payloadBase, bufBase, txtBase, annBase, tempBase, payloadSize, bufSize, txtSize]
  omega

theorem State.setBuf_wf (s : State) (b : List Byte) (h : Memory.wf s.mem = true) :
    Memory.wf (s.setBuf b).mem = true :=
  Memory.write_wf _ _ _ h (fun i hi => inArray_buf i (by simp at hi; omega))

theorem State.setTxt_wf (s : State) (t : List Byte) (h : Memory.wf s.mem = true) :
    Memory.wf (s.setTxt t).mem = true :=
  Memory.write_wf _ _ _ h (fun i hi => inArray_txt i (by simp at hi; omega))

theorem State.setFrame_wf (s : State) (f : Frame) (h : Memory.wf s.mem = true) :
    Memory.wf (s.setFrame f).mem = true :=
  Memory.write_wf _ _ _ h (fun i hi => inArray_payload i (by simp at hi; omega))

theorem State.setByte_wf (s : State) (a : Nat) (b : Byte) (ha : inArray a = true) (h : Memory.wf s.mem = true) :
    Memory.wf (s.setByte a b).mem = true :=
  Memory.write_wf _ _ _ h (fun i hi => by simp at hi; simpa [hi] using ha)

theorem State.reset_mem_wf : Memory.wf State.reset.mem = true := rfl

/-! ### The bytes a command reads -/

@[simp] theorem State.bytesAt_length (s : State) (base n : Nat) : (s.bytesAt base n).length = n := by
  induction n generalizing base with
  | zero => rfl
  | succ n ih => simp [State.bytesAt, ih]

theorem State.bytesAt_getElem (s : State) (base n i : Nat) (h : i < (s.bytesAt base n).length) :
    (s.bytesAt base n)[i] = s.byteAt (base + i) := by
  induction n generalizing base i with
  | zero => simp at h
  | succ n ih =>
    cases i with
    | zero => simp [State.bytesAt]
    | succ i =>
      simp only [State.bytesAt, List.getElem_cons_succ]
      rw [ih]; congr 1; omega

/-- What a range reads as depends on memory and the reset count alone. -/
theorem State.byteAt_congr (s t : State) (a : Nat) (hm : Memory.read s.mem a = Memory.read t.mem a)
    (he : s.epoch = t.epoch) : s.byteAt a = t.byteAt a := by
  simp [State.byteAt, hm, he]

/-- A range reads back as the bytes a write has put there. -/
theorem State.bytesAt_of_write (s : State) (m : List Host.Cell) (base : Nat) (bytes : List Byte)
    (hm : s.mem = Memory.write m base bytes) : s.bytesAt base bytes.length = bytes := by
  apply List.ext_getElem (by simp)
  intro i h1 h2
  rw [State.bytesAt_getElem, State.byteAt, hm, Memory.read_write_inside _ _ _ _ h2]
  rfl

theorem State.setBuf_bufLen_toNat (s : State) (b : List Byte) (h : b.length ≤ 256) :
    (s.setBuf b).bufLen.toNat = b.length := by
  simp [bufSize]; omega

/-- After `BUF <- b`, `BUF[0 .. BUF_LEN)` is `b`, if it fits. -/
theorem State.setBuf_bufBytes (s : State) (b : List Byte) (h : b.length ≤ 256) : (s.setBuf b).bufBytes = b := by
  have ht : b.take bufSize = b := List.take_of_length_le (by simpa [bufSize] using h)
  have hm : (s.setBuf b).mem = Memory.write s.mem bufBase b := by simp [ht]
  have := State.bytesAt_of_write (s.setBuf b) s.mem bufBase b hm
  rwa [State.bufBytes, State.setBuf_bufLen_toNat s b h]

/-- After `TXT <- t`, `TXT[0 .. TXT_LEN)` is `t`, if it fits. -/
theorem State.setTxt_txtBytes (s : State) (t : List Byte) (h : t.length ≤ 512) : (s.setTxt t).txtBytes = t := by
  have ht : t.take txtSize = t := List.take_of_length_le (by simpa [txtSize] using h)
  have hm : (s.setTxt t).mem = Memory.write s.mem txtBase t := by simp [ht]
  have hl : (s.setTxt t).txtLen.toNat = t.length := by simp [ht]; omega
  have := State.bytesAt_of_write (s.setTxt t) s.mem txtBase t hm
  rwa [State.txtBytes, hl]

/-- After `FR <- f`, `PAYLOAD[0 .. FR.PLEN)` is the frame's payload, if its length byte fits it. -/
theorem State.setFrame_payloadBytes (s : State) (f : Frame) (h6 : 6 ≤ f.head.length.toNat)
    (hl : f.payload.length = f.head.length.toNat - 6) : (s.setFrame f).payloadBytes = f.payload := by
  have hb : f.head.length.toNat < 256 := f.head.length.isLt
  have ht : f.payload.take payloadSize = f.payload := List.take_of_length_le (by simp [payloadSize]; omega)
  have hm : (s.setFrame f).mem = Memory.write s.mem payloadBase f.payload := by simp [ht]
  have hn : (s.setFrame f).plen.toNat = f.payload.length := by
    simp only [State.setFrame_plen, BitVec.toNat_sub, hl]
    simp; omega
  have := State.bytesAt_of_write (s.setFrame f) s.mem payloadBase f.payload hm
  rwa [State.payloadBytes, hn]

end Sys2Proof.Machine
end

