-- ==== Sys2Proof/Laws/Ops.lean ====
section
/-! SUPPORT. One lemma per shared operation, saying once all that it does: the end of a command, a call, a buffer or frame
written, the codec's reaction, the sequencer's act, the fetch and the step. Proofs cite these instead of unfolding. -/

namespace Sys2Proof.Machine

/-! ### Starting and ending a command -/

@[simp] theorem statusFatal_start (st : Byte) : statusFatal (statusStart st) = statusFatal st := by simp [statusStart]

@[simp] theorem statusErr_start (st : Byte) : statusErr (statusStart st) = statusErr st := by simp [statusStart]

@[simp] theorem statusBusy_start (st : Byte) : statusBusy (statusStart st) = true := by simp [statusStart]

@[simp] theorem statusBusy_end (st : Byte) (c : Cause) : statusBusy (statusEnd st c) = false := by simp [statusEnd]

/-- A command's end in the words of the statements (R29, R203). -/
theorem State.finish_eq (s : State) (r : Raised) (e : BitVec 3) (n : Nat) :
    s.finish r e n =
      s.withEnd s.cmd r.cause.code (BitVec.ofNat 16 r.expected) (BitVec.ofNat 16 r.actual) e (BitVec.ofNat 9 n)
        (statusFatal s.status || decide (r.cause = .unknownSource)) := by
  rw [State.finish, State.withEnd, statusEnd, causeCode_ne_zero]

theorem State.succeed_eq (s : State) :
    s.succeed = s.withEnd s.cmd 0#8 0#16 0#16 0#3 0#9 (statusFatal s.status) := by
  rw [State.succeed, State.finish_eq]; simp [Raised.success, Cause.code]

theorem State.endWith_eq (s : State) (r : Raised) :
    s.endWith r =
      s.withEnd s.cmd r.cause.code (BitVec.ofNat 16 r.expected) (BitVec.ofNat 16 r.actual) 0#3 0#9
        (statusFatal s.status || decide (r.cause = .unknownSource)) := by
  rw [State.endWith, State.finish_eq]

theorem State.failHandshake_eq (s : State) (r : Raised) :
    s.failHandshake r =
      s.withFailed r.cause.code (BitVec.ofNat 16 r.expected) (BitVec.ofNat 16 r.actual)
        (statusFatal s.status || decide (r.cause = .unknownSource)) := by
  rw [State.failHandshake, State.finish_eq, State.withFailed]

/-- An end forgets that the command was started. -/
theorem State.withEnd_startCommand (s : State) (c cmd result : Byte) (x y : Half) (e : BitVec 3) (n : BitVec 9)
    (f : Bool) : (s.startCommand c).withEnd cmd result x y e n f = s.withEnd cmd result x y e n f := rfl

/-- A command that starts and ends with a cause in one step. -/
theorem State.startCommand_endWith (s : State) (c : Byte) (r : Raised) :
    (s.startCommand c).endWith r =
      s.withEnd c r.cause.code (BitVec.ofNat 16 r.expected) (BitVec.ofNat 16 r.actual) 0#3 0#9
        (statusFatal s.status || decide (r.cause = .unknownSource)) := by
  rw [State.endWith_eq, State.withEnd_startCommand]; simp

/-- A command that starts and makes its call (R134, R172). -/
theorem State.startCommand_issue (s : State) (code : Byte) (c : Call) :
    (s.startCommand code).issue c = s.withCall code c := rfl

theorem State.issue_eq (s : State) (c : Call) : s.issue c = s.withOwnCall c := rfl

/-! ### Buffers and the frame registers -/

theorem SameOutside.write (s t : State) (base : Nat) (bytes : List Byte) (h : t.mem = Memory.write s.mem base bytes) :
    SameOutside s t base bytes.length := by
  intro a ha
  rw [h, Memory.read_write_outside _ _ _ _ ha]

theorem take_of_le {n : Nat} {b : List Byte} (h : b.length ≤ n) : b.take n = b := List.take_of_length_le h

/-- What a range holds depends on memory, the length register and the epoch alone. -/
theorem State.bytesAt_congr (s t : State) (hm : s.mem = t.mem) (he : s.epoch = t.epoch) (base n : Nat) :
    s.bytesAt base n = t.bytesAt base n := by
  induction n generalizing base with
  | zero => rfl
  | succ n ih => simp [State.bytesAt, ih, State.byteAt, hm, he]

theorem State.bufBytes_congr (s t : State) (hm : s.mem = t.mem) (he : s.epoch = t.epoch) (hl : s.bufLen = t.bufLen) :
    s.bufBytes = t.bufBytes := by
  rw [State.bufBytes, State.bufBytes, hl]; exact State.bytesAt_congr s t hm he _ _

theorem State.txtBytes_congr (s t : State) (hm : s.mem = t.mem) (he : s.epoch = t.epoch) (hl : s.txtLen = t.txtLen) :
    s.txtBytes = t.txtBytes := by
  rw [State.txtBytes, State.txtBytes, hl]; exact State.bytesAt_congr s t hm he _ _

theorem State.payloadBytes_congr (s t : State) (hm : s.mem = t.mem) (he : s.epoch = t.epoch) (hl : s.plen = t.plen) :
    s.payloadBytes = t.payloadBytes := by
  rw [State.payloadBytes, State.payloadBytes, hl]; exact State.bytesAt_congr s t hm he _ _

/-- The bytes of a range do not depend on the script or the link. -/
@[simp] theorem State.withEvents_bytesAt (s : State) (es : List Event) (base n : Nat) :
    (s.withEvents es).bytesAt base n = s.bytesAt base n := by
  apply State.bytesAt_congr <;> rfl

@[simp] theorem State.withOutbound_bytesAt (s : State) (ws : List WireItem) (base n : Nat) :
    (s.withOutbound ws).bytesAt base n = s.bytesAt base n := by
  apply State.bytesAt_congr <;> rfl

@[simp] theorem State.withEvents_bufBytes (s : State) (es : List Event) : (s.withEvents es).bufBytes = s.bufBytes :=
  by
  apply State.bufBytes_congr <;> rfl

@[simp] theorem State.withOutbound_bufBytes (s : State) (ws : List WireItem) :
    (s.withOutbound ws).bufBytes = s.bufBytes := by
  apply State.bufBytes_congr <;> rfl

/-- `BUF <- b` for a sequence that fits. -/
theorem State.setBuf_spec (s : State) (b : List Byte) (h : b.length ≤ 256) :
    s.setBuf b = { s with mem := Memory.write s.mem bufBase b, bufLen := BitVec.ofNat 9 b.length } := by
  rw [State.setBuf, take_of_le h]

/-- `FR <- f`: what `PAYLOAD` reads back as, and what memory becomes (R176). -/
theorem State.setFrame_spec (s : State) (f : Frame) (h : 6 ≤ f.head.length.toNat)
    (hp : f.payload.length = f.head.length.toNat - 6) :
    (s.setFrame f).payloadBytes = f.payload ∧ (s.setFrame f).mem = Memory.write s.mem payloadBase f.payload := by
  have hl : f.head.length.toNat < 256 := f.head.length.isLt
  refine ⟨State.setFrame_payloadBytes s f h hp, ?_⟩
  rw [State.setFrame_mem, take_of_le (show f.payload.length ≤ 249 by omega)]

/-! ### The codec's reaction to a frame -/

/-- For the host: the frame is in `FR` and the command has ended (R176). -/
theorem State.frameDecoded_host (s : State) (f : Frame) (ha : s.activity ≠ .decoding) (h : 6 ≤ f.head.length.toNat)
    (hp : f.payload.length = f.head.length.toNat - 6) : LoadsFrame s (.next (s.frameDecoded f)) f := by
  obtain ⟨h1, h2⟩ := s.setFrame_spec f h hp
  refine ⟨_, rfl, ?_, ?_, ?_⟩
  · rw [State.frameDecoded, if_neg ha, State.finish_eq]
    simp [State.withEnd, State.setFrame, Raised.success, Cause.code]
  · rw [State.frameDecoded, if_neg ha, ← h1]; exact State.payloadBytes_congr _ _ rfl rfl rfl
  · apply SameOutside.write; rw [State.frameDecoded, if_neg ha]; exact h2

/-- For the listening sequencer: the broadcast is latched (R153, R154). -/
theorem State.frameDecoded_broadcast (s : State) (f : Frame) (nid : NetId) (ha : s.activity = .decoding)
    (hs : s.assoc = .awaitingBroadcast) (hb : isAssocBroadcast s.cfg f = true)
    (hp : f.payload.length = f.head.length.toNat - 6) (h : 6 ≤ f.head.length.toNat)
    (hn : netIdOf (f.payload.drop 1) = some nid) : AcceptsBroadcast s (.next (s.frameDecoded f)) f nid := by
  obtain ⟨h1, h2⟩ := s.setFrame_spec f h hp
  have e : s.frameDecoded f = { (s.setFrame f).latchBroadcast f with phase := 1#2, activity := .sequencing } := by
    simp [State.frameDecoded, ha, State.frameReceived, hs, hb]
  refine ⟨_, rfl, ?_, ?_, ?_⟩
  · rw [e]; rw [List.drop_one] at hn; simp [State.latchBroadcast, State.setFrame, hn]
  · rw [e, ← h1]; exact State.payloadBytes_congr _ _ rfl rfl rfl
  · apply SameOutside.write; rw [e]; exact h2

/-- For the sequencer: a frame that is not the one it waits for is dropped (R153, R158). -/
theorem State.frameDecoded_dropped (s : State) (f : Frame) (ha : s.activity = .decoding)
    (hs : (s.assoc = .awaitingBroadcast ∧ isAssocBroadcast s.cfg f = false) ∨
      (s.assoc = .confirming ∧ isBoiler f = false))
    (h : 6 ≤ f.head.length.toNat) (hp : f.payload.length = f.head.length.toNat - 6) :
    DropsFrame s (.next (s.frameDecoded f)) f := by
  obtain ⟨h1, h2⟩ := s.setFrame_spec f h hp
  have e : s.frameDecoded f = { s.setFrame f with phase := 0#2, activity := .sequencing } := by
    rcases hs with ⟨hs, hb⟩ | ⟨hs, hb⟩ <;> simp [State.frameDecoded, ha, State.frameReceived, hs, hb]
  refine ⟨_, rfl, ?_, ?_, ?_⟩
  · rw [e]; simp [State.setFrame]
  · rw [e, ← h1]; exact State.payloadBytes_congr _ _ rfl rfl rfl
  · apply SameOutside.write; rw [e]; exact h2

/-- For the confirming sequencer: a boiler frame ends the handshake (R160). -/
theorem State.frameDecoded_paired (s : State) (f : Frame) (ha : s.activity = .decoding) (hs : s.assoc = .confirming)
    (hb : isBoiler f = true) (h : 6 ≤ f.head.length.toNat) (hp : f.payload.length = f.head.length.toNat - 6) :
    PairsOnFrame s (.next (s.frameDecoded f)) f := by
  obtain ⟨h1, h2⟩ := s.setFrame_spec f h hp
  have e : s.frameDecoded f = ({ s.setFrame f with assoc := .paired, phase := 0#2 } : State).succeed := by
    simp [State.frameDecoded, ha, State.frameReceived, hs, hb]
  refine ⟨_, rfl, ?_, ?_, ?_⟩
  · rw [e, State.succeed_eq]; simp [State.withEnd, State.setFrame]
  · rw [e, ← h1]; exact State.payloadBytes_congr _ _ rfl rfl rfl
  · apply SameOutside.write; rw [e]; exact h2

/-- A frame that does not decode (R163, R176, R189). -/
theorem State.frameRejected_eq (s : State) (r : Raised) :
    s.frameRejected r =
      if s.activity = .decoding then
        s.withFailed r.cause.code (BitVec.ofNat 16 r.expected) (BitVec.ofNat 16 r.actual)
          (statusFatal s.status || decide (r.cause = .unknownSource))
      else
        s.withEnd s.cmd r.cause.code (BitVec.ofNat 16 r.expected) (BitVec.ofNat 16 r.actual) 0#3 0#9
          (statusFatal s.status || decide (r.cause = .unknownSource)) := by
  rw [State.frameRejected]; split
  · rw [State.failHandshake_eq]
  · rw [State.endWith_eq]

/-! ### Transport -/

/-- What the transport's taking of a call changes, and when it draws a free value (R130 to R133, R209). -/
theorem State.disturbRadio_cases (s : State) :
    (s.radioStandby = false ∧ s.disturbRadio = s) ∨
    (s.radioStandby = true ∧
      s.disturbRadio = { s with radioStandby := Config.openStandby s.draws, draws := s.draws + 1 }) := by
  cases h : s.radioStandby <;> simp [State.disturbRadio, h]

/-- A delivery to a waiting receive (R151, R183). -/
theorem State.deliver_awaited (s : State) (b : List Byte) (h : s.awaitsFrame = true) :
    DeliversBytes s (.next (s.deliver b)) b := by
  have hl : (b.take 256).length ≤ 256 := by simp
  have hb : (s.setBuf b).bufBytes = b.take 256 := by
    have := State.setBuf_bufBytes s (b.take 256) hl
    rwa [show s.setBuf (b.take 256) = s.setBuf b by simp [State.setBuf, List.take_take, bufSize]] at this
  have hm : (s.setBuf b).mem = Memory.write s.mem bufBase (b.take 256) := rfl
  by_cases hh : s.handshake = true
  · have e : s.deliver b = { s.setBuf b with activity := .decoding } := by simp [State.deliver, h, hh]
    refine ⟨_, rfl, ?_, ?_, ?_⟩
    · rw [e, if_pos hh]; rfl
    · rw [e, ← hb]; apply State.bufBytes_congr <;> rfl
    · apply SameOutside.write; rw [e]; exact hm
  · have e : s.deliver b = (s.setBuf b).succeed := by simp [State.deliver, h, hh]
    refine ⟨_, rfl, ?_, ?_, ?_⟩
    · rw [e, if_neg hh, State.succeed_eq]; rfl
    · rw [e, ← hb]; apply State.bufBytes_congr <;> rfl
    · apply SameOutside.write; rw [e]; exact hm

theorem State.deliver_unawaited (s : State) (b : List Byte) (h : s.awaitsFrame = false) : s.deliver b = s := by
  simp [State.deliver, h]

theorem State.deliverMalformed_unawaited (s : State) (h : s.awaitsFrame = false) : s.deliverMalformed = s := by
  simp [State.deliverMalformed, h]

/-- A malformed delivery to a waiting receive (R163, R183). -/
theorem State.deliverMalformed_awaited (s : State) (h : s.awaitsFrame = true) :
    s.deliverMalformed =
      if s.handshake then s.withFailed 1#8 0#16 0#16 (statusFatal s.status)
      else s.withEnd s.cmd 1#8 0#16 0#16 0#3 0#9 (statusFatal s.status) := by
  simp [State.deliverMalformed, h, State.raise, State.failHandshake_eq, State.endWith_eq, Cause.code]

/-! ### The sequencer -/

/-- A `send` act of the sequencer whose frame encodes (R151). -/
theorem State.sendFrame_spec (s : State) (m : Metadata) (p : List Byte) (hs : familyOf m.fromAddr ≠ none)
    (hl : m.length.toNat = 6 + p.length) : SendsFromBuf s (.next (s.sendFrame m p)) (metaEncode m ++ p) := by
  have hlt : m.length.toNat < 256 := m.length.isLt
  have hn : (metaEncode m ++ p).length ≤ 256 := by simp; omega
  have e : s.sendFrame m p = (s.setBuf (metaEncode m ++ p)).issue (.send (metaEncode m ++ p)) := by
    simp [State.sendFrame, encodeFrame, hs, hl]
  refine ⟨_, rfl, ?_, ?_, ?_⟩
  · rw [e, State.setBuf_spec _ _ hn]; rfl
  · rw [e]; refine Eq.trans ?_ (State.setBuf_bufBytes s _ hn); apply State.bufBytes_congr <;> rfl
  · apply SameOutside.write; rw [e, State.setBuf_spec _ _ hn]; rfl

/-- What a write to a register can change: the frame registers, the two lengths, the configuration, one byte of memory
(R38, R39). -/
theorem State.writeReg_frame (s : State) (r : Reg) (v : PortWord) :
    s.writeReg r v =
      { s with
        fr := (s.writeReg r v).fr, plen := (s.writeReg r v).plen, bufLen := (s.writeReg r v).bufLen
        txtLen := (s.writeReg r v).txtLen, cfg := (s.writeReg r v).cfg, mem := (s.writeReg r v).mem } := by
  cases r <;> first
    | rfl
    | (simp only [State.writeReg]; split <;> rfl)

/-- A read changes what the host sees and the count of free values, nothing else (R53, R171). -/
theorem State.hostRead_frame (s : State) (n : Nat) :
    s.hostRead n = { s with portData := (s.hostRead n).portData, draws := (s.hostRead n).draws } := by
  unfold State.hostRead; split <;> rfl

/-- A network identity at the port is its four bytes side by side, the first one most significant. -/
theorem netIdWord_eq_append (n : NetId) : netIdWord n = n.b0 ++ n.b1 ++ n.b2 ++ n.b3 := by
  apply BitVec.eq_of_toNat_eq
  have := n.b0.isLt; have := n.b1.isLt; have := n.b2.isLt; have := n.b3.isLt
  simp only [netIdWord, BitVec.toNat_ofNat, BitVec.toNat_append]
  rw [← Nat.shiftLeft_add_eq_or_of_lt (by omega), ← Nat.shiftLeft_add_eq_or_of_lt (by omega),
    ← Nat.shiftLeft_add_eq_or_of_lt (by omega)]
  simp only [Nat.shiftLeft_eq]; omega

/-- A view of the flag byte lies inside `PAYLOAD` (R17, R121). -/
theorem State.flagOffset_lt (s : State) (o : Nat) (h : s.flagOffset = some o) : o + 1 = s.plen.toNat ∧ o < 249 := by
  unfold State.flagOffset at h
  split at h
  · rename_i hh
    cases h
    have : s.plen.toNat ≤ 249 := hh.2.2
    omega
  · cases h

/-- Characters that arrive change the unread part of the incoming stream alone. -/
theorem State.arrive_eq (s : State) (chars : List Byte) :
    s.arrive chars = s.withIncoming (if s.link = .serial then s.incoming ++ chars else s.incoming) := by
  unfold State.arrive
  cases h : s.link <;> simp [State.withIncoming]

/-- What an answer that completes no delivery does (R134, R135, R142, R213). -/
theorem State.answered_cases (s : State) (n : Nat) (a : Answer) :
    s.answered n a = s ∨
    (∃ c, s.activity = .waiting c ∧ s.answersLast n = true ∧ a = .err ∧ s.answered n a = s.callFailed c) ∨
    (∃ text, s.activity = .waiting .receive ∧ s.answersLast n = true ∧ a = .ok text ∧
      s.answered n a = s.arrive text) ∨
    (∃ c text, s.activity = .waiting c ∧ c ≠ .receive ∧ s.answersLast n = true ∧ a = .ok text ∧
      s.answered n a = s.callSucceeded) := by
  unfold State.answered
  split
  · rename_i c hc
    by_cases ho : s.answersLast n = true
    · cases a with
      | err => exact .inr (.inl ⟨c, hc, ho, rfl, by simp [ho]⟩)
      | ok text =>
        by_cases hr : c = .receive
        · subst hr; exact .inr (.inr (.inl ⟨text, hc, ho, rfl, by simp [ho]⟩))
        · exact .inr (.inr (.inr ⟨c, text, hc, hr, ho, rfl, by simp [ho, hr]⟩))
    · exact .inl (by simp [ho])
  all_goals exact .inl rfl

/-! ### The incoming stream -/

/-- A line that is read is the stream's first, and is one line (R142). -/
theorem nextLine_eq_some (stream line rest : List Byte) (h : nextLine stream = some (line, rest)) :
    ∃ text, splitLine stream = some (text, rest) ∧ line = text ++ [charCR, charLF] := by
  simp only [nextLine, Option.map_eq_some_iff] at h
  obtain ⟨p, hp, h⟩ := h
  cases h
  exact ⟨p.1, hp, rfl⟩

/-- What a read of the stream leaves: the unread characters alone change. -/
theorem State.lineDue_eq_some (s s1 : State) (line : List Byte) (h : s.lineDue = some (line, s1)) :
    s.awaitsFrame = true ∧ s.link = .serial ∧ ∃ rest, nextLine s.incoming = some (line, rest) ∧ s1 = s.withIncoming rest := by
  unfold State.lineDue at h
  split at h
  · rename_i hc
    simp only [Option.map_eq_some_iff] at h
    obtain ⟨p, hp, h⟩ := h
    cases h
    exact ⟨hc.1, hc.2, p.2, hp, rfl⟩
  · cases h

/-- The decoder reads a line that the stream's reader has cut off (R142). -/
theorem decode_nextLine (cfg : Cfg) (stream text rest : List Byte) (h : splitLine stream = some (text, rest)) :
    nextLine stream = some (text ++ [charCR, charLF], rest) ∧
      Sys2Proof.decode cfg (.incomingLine (text ++ [charCR, charLF])) = .ok (.serialIncoming text) := by
  refine ⟨by simp [nextLine, h], ?_⟩
  simp only [Sys2Proof.decode, splitLine_append text [] (splitLine_eq_some stream text rest h).2]

/-- No line is due where no receive waits. -/
theorem State.lineDue_unawaited (s : State) (h : s.awaitsFrame = false) : s.lineDue = none := by
  simp [State.lineDue, h]

theorem State.awaitsFrame_of_activity (s : State) (h : s.activity ≠ .waiting .receive) : s.awaitsFrame = false := by
  simp [State.awaitsFrame, h]

@[simp] theorem State.fetchLine_unawaited (s : State) (h : s.activity ≠ .waiting .receive) : s.fetchLine = none := by
  simp [State.fetchLine, State.lineDue_unawaited s (State.awaitsFrame_of_activity s h)]

/-- A line read from the stream, as the unit it is. -/
theorem State.fetchLine_eq_some (s s1 : State) (u : Encoded) (h : s.fetchLine = some (u, s1)) :
    ∃ line rest, u = .incomingLine line ∧ nextLine s.incoming = some (line, rest) ∧ s1 = s.withIncoming rest := by
  simp only [State.fetchLine, Option.map_eq_some_iff] at h
  obtain ⟨p, hp, h⟩ := h
  cases h
  obtain ⟨-, -, rest, hn, h1⟩ := s.lineDue_eq_some _ _ hp
  exact ⟨p.1, rest, rfl, hn, h1⟩

/-! ### The fetch and the step -/

/-- An act of the running sequencer is what the next turn does, with or without a script (R14, R166). -/
theorem OnTurn.of_act (s : State) (P : State → Out → Prop) (ha : s.activity = .sequencing)
    (h : ∀ es, ∃ t, (s.withEvents es).sequencerAct = some t ∧ P (s.withEvents es) (.next t)) :
    OnTurn s P := by
  intro ho
  constructor
  · intro he
    obtain ⟨t, h1, h2⟩ := h s.events
    have hs : step s = .next t := by
      have h1' : s.sequencerAct = some t := h1
      simp [step, State.fetch, he, State.fetchTurn, ho, ha, State.runEvent, State.ownTurn, h1']
    rw [hs]; exact h2
  · intro es he
    obtain ⟨t, h1, h2⟩ := h es
    have hs : step s = .next t := by
      simp [step, State.fetch, he, State.fetchTurn, ho, ha, State.runEvent, State.givenTurn, State.ownTurn, h1]
    rw [hs]; exact h2

/-- What one step can be: an instruction, a unit that is none, or an act that brings up no unit. -/
theorem step_cases (s : State) :
    (∃ u s1 i, s.fetch = some (u, s1) ∧ Sys2Proof.decode s1.cfg u = .ok i ∧ step s = exec i s1) ∨
    (∃ u s1 e, s.fetch = some (u, s1) ∧ Sys2Proof.decode s1.cfg u = .error e ∧ step s = s1.undecodable e) ∨
    (s.fetch = none ∧ step s = s.runEvent) := by
  unfold step
  cases hf : s.fetch with
  | none => exact .inr (.inr ⟨rfl, rfl⟩)
  | some p =>
    obtain ⟨u, s1⟩ := p
    cases hd : Sys2Proof.decode s1.cfg u with
    | ok i => exact .inl ⟨u, s1, i, rfl, hd, by simp [hd]⟩
    | error e => exact .inr (.inl ⟨u, s1, e, rfl, hd, by simp [hd]⟩)

/-- The state a unit is executed in: the state before, with the script, the link or the incoming stream moved on. -/
theorem State.fetch_state (s s1 : State) (u : Encoded) (h : s.fetch = some (u, s1)) :
    s1 = ((s.withEvents s1.events).withOutbound s1.outbound).withIncoming s1.incoming := by
  unfold State.fetch at h
  split at h <;> first
    | (simp only [State.fetchTurn] at h; split at h <;> first
        | (cases h; rfl)
        | (split at h <;> first
            | (cases h; rfl)
            | (obtain ⟨line, rest, -, -, h1⟩ := State.fetchLine_eq_some _ _ _ h; subst h1; rfl)))
    | (simp only [State.fetchWrite] at h; split at h <;> first
        | cases h
        | (split at h <;> first
            | (cases h; rfl)
            | (split at h <;> cases h; rfl)))
    | (simp only [State.fetchAnswer] at h; split at h <;> first
        | cases h
        | (split at h <;> first
            | (split at h <;> first
                | (cases h; rfl)
                | (obtain ⟨line, rest, -, -, h1⟩ := State.fetchLine_eq_some _ _ _ h
                   subst h1; rw [State.arrive_eq]; rfl))
            | cases h))
    | cases h

end Sys2Proof.Machine
end

