-- ==== Sys2Proof/Tests/Slice0.lean ====
section
/-! SUPPORT. Tests of the model. Expected results come from the spec's vectors (95_test_vectors.md S1 to S11, V0 to V5) and
the examples in its rules, or are worked out by hand from the rules. The last part shows, for every statement with
hypotheses, states that meet them. -/

namespace Sys2Proof.Tests.Slice0
open Sys2Proof Sys2Proof.Machine

/-! ### Configurations and small states -/

/-- `Cfg1` of 95_test_vectors.md. -/
def cfg1 : Cfg :=
  { Cfg.reset with annEn := true, annPlen := 5#8, tempEn := true, tempPlen := 11#8, extTempOff := 8#8, satTempEn := true
                   lenSatTemp := 10#8 }

/-- The reset state with `Cfg1`. -/
def ready : State := { State.reset with cfg := cfg1 }

/-- The reset state with bytes in `BUF`. -/
def withBuf (b : List Byte) : State := State.reset.setBuf b

/-- The reset state with characters in `TXT`. -/
def withTxt (t : List Byte) : State := State.reset.setTxt t

/-- A handshake in the given state, doing the given thing. -/
def handshake (a : AssocState) (p : BitVec 2) (d : Activity) : State :=
  { ready with cmd := 0x05#8, status := mkStatus true false false false, assoc := a, phase := p, activity := d }

/-- A pass-through command that waits for its call. -/
def passThrough (code : Byte) (c : Call) : State :=
  { ready with cmd := code, status := mkStatus true false false false, activity := .waiting c }

/-- The next state of an outcome, if there is one. -/
def nextOf : Out → Option State
  | .next t => some t
  | .fault _ => none
  | .refused _ => none

/-- What a test looks at in the next state. -/
def see {α : Type} (o : Out) (look : State → α) : Option α := (nextOf o).map look

/-- The result registers. -/
def results (t : State) : Byte × Half × Half × BitVec 3 × BitVec 9 :=
  (t.result, t.errExpected, t.errActual, t.errState, t.consumed)

def headB : FrameHead := ⟨0x00#8, 0xD3C8#16, 0x02#8, 0x41#8⟩
def payloadB : List Byte := [0x04#8, 0x05#8, 0xD7#8, 0x19#8, 0x9E#8]
def bytesB : List Byte := [0x0B#8, 0x00#8, 0x80#8, 0xD3#8, 0xC8#8, 0x02#8, 0x41#8] ++ payloadB
def bytesC : List Byte := [0x08#8, 0x80#8, 0x20#8, 0x83#8, 0x00#8, 0x01#8, 0x43#8, 0x00#8, 0x00#8]
def payloadA : List Byte :=
  [0x2A#8, 0x05#8, 0x0A#8, 0x00#8, 0x00#8, 0x23#8, 0x04#8, 0x23#8, 0x17#8, 0x10#8, 0x12#8, 0x00#8, 0x00#8, 0x00#8,
    0xC0#8, 0x00#8, 0xBE#8, 0x00#8, 0x25#8, 0x00#8, 0xC6#8, 0x00#8, 0xC6#8, 0x04#8, 0xF6#8] ++
  [0x00#8, 0x00#8, 0x00#8, 0x00#8, 0x00#8, 0x00#8, 0x00#8, 0x00#8, 0x04#8, 0xF6#8, 0x00#8, 0x00#8, 0x00#8, 0x00#8,
    0x00#8, 0x00#8, 0x00#8, 0x00#8]
def headA : FrameHead := ⟨0x08#8, 0x1948#16, 0x81#8, 0x17#8⟩
def bytesA : List Byte := [0x31#8, 0x08#8, 0x80#8, 0x19#8, 0x48#8, 0x81#8, 0x17#8] ++ payloadA

/-! ### Decoding: units written out from the spec -/

/-- S1, scenario A. -/
theorem test_decode_scenarioA :
    Sys2Proof.decode Cfg.reset (.frame bytesA) = .ok (.boilerSetTempResponse headA payloadA) := by decide

/-- S2, scenario B. -/
theorem test_decode_scenarioB :
    Sys2Proof.decode Cfg.reset (.frame bytesB) = .ok (.boilerAssocBroadcast headB payloadB) := by decide

/-- S3, scenario C; V1.7 with a byte after the frame. -/
theorem test_decode_scenarioC :
    Sys2Proof.decode Cfg.reset (.frame (bytesC ++ [0x11#8])) =
      .ok (.probeInit ⟨0x80#8, 0x8300#16, 0x01#8, 0x43#8⟩ [0x00#8, 0x00#8]) := by decide

/-- V2.4. -/
theorem test_decode_boilerUnknown :
    Sys2Proof.decode Cfg.reset
        (.frame [0x09#8, 0x80#8, 0x80#8, 0x00#8, 0x01#8, 0x81#8, 0x09#8, 0x01#8, 0xAA#8, 0xBB#8]) =
      .ok (.boilerUnknown ⟨0x80#8, 0x0001#16, 0x81#8, 0x09#8⟩ [0x01#8, 0xAA#8, 0xBB#8]) := by decide

/-- V3.3, and V3.5: the same frame under the reset configuration. -/
theorem test_decode_announce :
    Sys2Proof.decode cfg1 (.frame ([0x0B#8, 0x80#8, 0x20#8, 0xD3#8, 0xC8#8, 0x82#8, 0x41#8] ++
        [0x01#8, 0x02#8, 0x03#8, 0x04#8, 0x05#8])) =
      .ok (.probeAssocAnnounce ⟨0x80#8, 0xD3C8#16, 0x82#8, 0x41#8⟩ [0x01#8, 0x02#8, 0x03#8, 0x04#8, 0x05#8]) ∧
    Sys2Proof.decode Cfg.reset (.frame ([0x0B#8, 0x80#8, 0x20#8, 0xD3#8, 0xC8#8, 0x82#8, 0x41#8] ++
        [0x01#8, 0x02#8, 0x03#8, 0x04#8, 0x05#8])) =
      .ok (.probeUnknown ⟨0x80#8, 0xD3C8#16, 0x82#8, 0x41#8⟩ [0x01#8, 0x02#8, 0x03#8, 0x04#8, 0x05#8]) := by decide

/-- The example of R120. -/
theorem test_decode_tempReport :
    Sys2Proof.decode cfg1 (.frame ([0x11#8, 0x80#8, 0x20#8, 0x12#8, 0x34#8, 0x01#8, 0x17#8] ++
        [0xAA#8, 0xBB#8, 0xCC#8, 0xDD#8, 0xEE#8, 0xFF#8, 0x11#8, 0x22#8, 0x7B#8, 0x00#8, 0x10#8])) =
      .ok (.probeTempReport ⟨0x80#8, 0x1234#16, 0x01#8, 0x17#8⟩
        [0xAA#8, 0xBB#8, 0xCC#8, 0xDD#8, 0xEE#8, 0xFF#8, 0x11#8, 0x22#8, 0x7B#8, 0x00#8, 0x10#8]) := by decide

/-- V4.1 and V4.5. -/
theorem test_decode_satellite :
    Sys2Proof.decode cfg1 (.frame [0x0A#8, 0x80#8, 0x09#8, 0x00#8, 0x07#8, 0x01#8, 0x17#8, 0x11#8, 0x22#8, 0x33#8, 0xBA#8]) =
      .ok (.satelliteTempReport .sat09 ⟨0x80#8, 0x0007#16, 0x01#8, 0x17#8⟩ [0x11#8, 0x22#8, 0x33#8, 0xBA#8]) ∧
    Sys2Proof.decode Cfg.reset (.frame [0x07#8, 0x80#8, 0x0A#8, 0x00#8, 0x01#8, 0x01#8, 0x17#8, 0x55#8]) =
      .ok (.satelliteUnknown .sat0A ⟨0x80#8, 0x0001#16, 0x01#8, 0x17#8⟩ [0x55#8]) := by decide

/-- V1.10, V1.13 (source), V1.8, V1.12 (length), V1.5 (cut payload). -/
theorem test_decode_illegal :
    Sys2Proof.decode Cfg.reset (.frame [0x08#8, 0x80#8, 0x55#8, 0x83#8, 0x00#8, 0x01#8, 0x43#8, 0x00#8]) =
      .ok (.frameIllegalSource ⟨0x08#8, 0x80#8, 0x55#8, 0x8300#16, 0x01#8, 0x43#8⟩ [0x00#8]) ∧
    Sys2Proof.decode Cfg.reset (.frame [0x05#8, 0x80#8, 0x20#8, 0x83#8, 0x00#8, 0x01#8, 0x43#8, 0x00#8]) =
      .ok (.frameIllegalLength [0x05#8, 0x80#8, 0x20#8, 0x83#8, 0x00#8, 0x01#8, 0x43#8, 0x00#8]) ∧
    Sys2Proof.decode Cfg.reset (.frame [0x05#8, 0x80#8, 0x55#8, 0x83#8, 0x00#8, 0x01#8]) =
      .ok (.frameIllegalLength [0x05#8, 0x80#8, 0x55#8, 0x83#8, 0x00#8, 0x01#8]) ∧
    Sys2Proof.decode Cfg.reset (.frame [0x08#8, 0x80#8, 0x20#8, 0x83#8, 0x00#8, 0x01#8, 0x43#8, 0x00#8]) =
      .ok (.frameHeader ⟨0x08#8, 0x80#8, 0x20#8, 0x8300#16, 0x01#8, 0x43#8⟩ [0x00#8]) := by decide

/-- The flag byte table of V3. -/
theorem test_decode_flags :
    Sys2Proof.decode Cfg.reset (.flagByte 0xBA#8) = .ok (.flags ⟨5#3, true, 2#2, true, false⟩) ∧
    Sys2Proof.decode Cfg.reset (.flagByte 0xE0#8) = .ok (.flags ⟨7#3, false, 0#2, false, false⟩) ∧
    Sys2Proof.decode Cfg.reset (.flagByte 0x0C#8) = .ok (.flags ⟨0#3, false, 3#2, false, false⟩) := by decide

/-- The examples of R138 and R140: `NID: 05d7199e`, `CMD: 088020830001430000`, each with LF. -/
theorem test_decode_lines_with_argument :
    Sys2Proof.decode Cfg.reset (.wire (.line [0x4E#8, 0x49#8, 0x44#8, 0x3A#8, 0x20#8, 0x30#8, 0x35#8, 0x64#8, 0x37#8,
        0x31#8, 0x39#8, 0x39#8, 0x65#8, 0x0A#8])) = .ok (.serialNid ⟨0x05#8, 0xD7#8, 0x19#8, 0x9E#8⟩) ∧
    Sys2Proof.decode Cfg.reset (.wire (.line ([0x43#8, 0x4D#8, 0x44#8, 0x3A#8, 0x20#8, 0x30#8, 0x38#8, 0x38#8, 0x30#8,
        0x32#8, 0x30#8, 0x38#8, 0x33#8] ++ [0x30#8, 0x30#8, 0x30#8, 0x31#8, 0x34#8, 0x33#8, 0x30#8, 0x30#8, 0x30#8, 0x30#8,
        0x0A#8]))) = .ok (.serialCmd bytesC) := by decide

/-- R139, R141. -/
theorem test_decode_lines_without_argument :
    Sys2Proof.decode Cfg.reset (.wire (.line [0x4C#8, 0x53#8, 0x54#8, 0x3A#8, 0x0A#8])) = .ok .serialLst ∧
    Sys2Proof.decode Cfg.reset (.wire (.line [0x53#8, 0x4C#8, 0x50#8, 0x3A#8, 0x0A#8])) = .ok .serialSlp := by decide

/-- R142: a line ends at CR LF; a chunk that is not one line is none. -/
theorem test_decode_incoming :
    Sys2Proof.decode Cfg.reset (.incomingLine [0x61#8, 0x42#8, 0x0D#8, 0x0A#8]) = .ok (.serialIncoming [0x61#8, 0x42#8]) ∧
    Sys2Proof.decode Cfg.reset (.incomingLine [0x61#8, 0x42#8, 0x0A#8]) = .error .notOneLine ∧
    Sys2Proof.decode Cfg.reset (.incomingField [0x61#8, 0x42#8]) = .ok (.brokerIncoming [0x61#8, 0x42#8]) := by decide

/-- R144 to R147. -/
theorem test_decode_envelopes :
    Sys2Proof.decode Cfg.reset (.wire (.envelope .listen none)) = .ok .brokerListen ∧
    Sys2Proof.decode Cfg.reset (.wire (.envelope .sleep none)) = .ok .brokerSleep ∧
    Sys2Proof.decode Cfg.reset (.wire (.envelope .setNetworkId (some [0x46#8, 0x46#8, 0x66#8, 0x66#8, 0x30#8, 0x31#8,
        0x30#8, 0x32#8]))) = .ok (.brokerSetNetworkId ⟨0xFF#8, 0xFF#8, 0x01#8, 0x02#8⟩) ∧
    Sys2Proof.decode Cfg.reset (.wire (.envelope .send (some [0x30#8, 0x38#8]))) = .ok (.brokerSend [0x08#8]) := by decide

/-- R86. -/
theorem test_decode_hostCommands :
    [0x00#8, 0x01#8, 0x02#8, 0x03#8, 0x04#8, 0x05#8, 0x06#8, 0x07#8, 0x08#8, 0x09#8, 0x0A#8, 0x0B#8, 0xFF#8].map
        decodeHostCmd =
      [.nop, .hexdec, .hexenc, .decode, .encode, .assocStart, .assocReset, .tSleep, .tSetNid, .tSend, .tReceive,
        .hostIllegal 0x0B#8, .hostIllegal 0xFF#8] := by decide

/-- An item that is none of the four lines, and an envelope with the wrong field, are refused by name. -/
theorem test_decode_refuses :
    Sys2Proof.decode Cfg.reset (.wire (.line [0x4C#8, 0x53#8, 0x54#8, 0x3A#8])) = .error .notACommandLine ∧
    Sys2Proof.decode Cfg.reset (.wire (.envelope .listen (some []))) = .error .notAnEnvelope := by decide

/-- A word of the opcode table, under the host's two readings. -/
theorem test_tableWord :
    decodeTableWord 8 0x0A = some .tReceive ∧
    decodeTableWord 24 0x080020 =
      some (.probeInit ⟨0x00#8, 0#16, 0#8, 0#8⟩ [0#8, 0#8]) ∧
    decodeTableWord 32 0x534C503A = some .serialSlp := by decide

/-- The placed word is what the next step runs. -/
theorem test_withFetchWord :
    see (step (State.reset.withFetchWord 8 0x0B)) results = some (8#8, 0#16, 0x0B#16, 0#3, 0#9) ∧
    see (step (State.reset.withFetchWord 24 0x080020)) (fun t => t.fr.fromAddr) = some 0x20#8 ∧
    see (step (State.reset.withFetchWord 32 0x534C503A)) (fun t => t.radioStandby) = some true := by decide

/-! ### Well-formedness: an ill-formed term for each check -/

/-- Each frame row refuses a payload whose length selects another row. -/
theorem test_wf_payload :
    WellFormed cfg1 (.boilerAssocBroadcast headB [0#8]) = false ∧
    WellFormed cfg1 (.boilerSetTempResponse headB payloadB) = false ∧
    WellFormed cfg1 (.boilerUnknown headB payloadB) = false ∧
    WellFormed cfg1 (.probeInit headB []) = false ∧
    WellFormed Cfg.reset (.probeAssocAnnounce headB payloadB) = false ∧
    WellFormed cfg1 (.probeTempReport headB payloadB) = false ∧
    WellFormed cfg1 (.probeUnknown headB payloadB) = false ∧
    WellFormed Cfg.reset (.satelliteTempReport .sat08 headB [0#8, 0#8, 0#8, 0#8]) = false ∧
    WellFormed cfg1 (.satelliteUnknown .sat08 headB [0#8, 0#8, 0#8, 0#8]) = false := by decide

/-- No frame row takes 250 bytes, no send 257. -/
theorem test_wf_limits :
    WellFormed cfg1 (.boilerUnknown headB (List.replicate 250 0#8)) = false ∧
    WellFormed cfg1 (.brokerSend (List.replicate 257 0#8)) = false := by
  simp only [WellFormed, payloadSelects, sendable, List.length_replicate]
  exact ⟨rfl, rfl⟩

/-- The illegal rows refuse legal frames. -/
theorem test_wf_illegal_rows :
    WellFormed cfg1 (.frameIllegalSource ⟨5#8, 0#8, 0x55#8, 0#16, 0#8, 0#8⟩ []) = false ∧
    WellFormed cfg1 (.frameIllegalSource ⟨8#8, 0#8, 0x20#8, 0#16, 0#8, 0#8⟩ []) = false ∧
    WellFormed cfg1 (.frameIllegalLength bytesC) = false ∧
    WellFormed cfg1 (.frameHeader ⟨5#8, 0#8, 0x20#8, 0#16, 0#8, 0#8⟩ []) = false ∧
    WellFormed cfg1 (.frameHeader ⟨8#8, 0#8, 0x55#8, 0#16, 0#8, 0#8⟩ []) = false ∧
    WellFormed cfg1 (.frameHeader ⟨8#8, 0#8, 0x20#8, 0#16, 0#8, 0#8⟩ [0#8, 0#8]) = false := by decide

/-- A send carries a byte; an incoming line holds no CR LF; a legal code is no illegal command. -/
theorem test_wf_others :
    WellFormed cfg1 (.serialCmd []) = false ∧ WellFormed cfg1 (.brokerSend []) = false ∧
    WellFormed cfg1 (.serialIncoming [0x0D#8, 0x0A#8]) = false ∧ WellFormed cfg1 (.hostIllegal 0x0A#8) = false := by
  decide

/-! ### The codec's functions -/

/-- V0.3, V0.4, V0.5, V0.8. -/
theorem test_hexDecode :
    hexDecode [0x61#8, 0x42#8] = .ok [0xAB#8] ∧
    hexDecode [0x61#8, 0x62#8, 0x63#8] = .error ⟨.malformedHex, 0, 3⟩ ∧
    hexDecode [0x30#8, 0x67#8] = .error ⟨.malformedHex, 0, 1⟩ ∧
    hexDecode [0x30#8, 0x36#8, 0x20#8, 0x38#8, 0x30#8] = .error ⟨.malformedHex, 0, 5⟩ := by decide

/-- V0.10, V0.11. -/
theorem test_hexEncode :
    hexEncode false [0x0B#8, 0xD3#8] = [0x30#8, 0x62#8, 0x64#8, 0x33#8] ∧
    hexEncode true [0x0B#8, 0xD3#8] = [0x30#8, 0x42#8, 0x44#8, 0x33#8] := by decide

/-- V1.3, V1.5, V1.10, V1.11, V1.15. -/
theorem test_decodeFrame :
    decodeFrame [0x08#8, 0x80#8, 0x20#8, 0x83#8, 0x00#8, 0x01#8] = .error ⟨.malformedHeader, 7, 6⟩ ∧
    decodeFrame [0x08#8, 0x80#8, 0x20#8, 0x83#8, 0x00#8, 0x01#8, 0x43#8, 0x00#8] = .error ⟨.truncatedPayload, 8, 7⟩ ∧
    decodeFrame [0x08#8, 0x80#8, 0x55#8, 0x83#8, 0x00#8, 0x01#8, 0x43#8, 0x00#8] = .error ⟨.unknownSource, 0, 0x55⟩ ∧
    decodeFrame [0x05#8, 0x80#8, 0x55#8, 0x83#8, 0x00#8, 0x01#8, 0x43#8] = .error ⟨.malformedHeader, 6, 5⟩ ∧
    decodeFrame [0x06#8, 0x80#8, 0x20#8, 0x83#8, 0x00#8, 0x01#8, 0x43#8] =
      .ok (⟨⟨6#8, 0x80#8, 0x20#8, 0x8300#16, 0x01#8, 0x43#8⟩, []⟩, 7) := by decide

/-- V5.2, V5.4, V5.5. -/
theorem test_encodeFrame :
    encodeFrame ⟨9#8, 0x80#8, 0x20#8, 0x8300#16, 0x01#8, 0x43#8⟩ [0#8, 0#8] = .error ⟨.lengthMismatch, 8, 9⟩ ∧
    encodeFrame ⟨9#8, 0x80#8, 0x21#8, 0x8300#16, 0x01#8, 0x43#8⟩ [0#8, 0#8] = .error ⟨.unknownSource, 0, 0x21⟩ ∧
    encodeFrame ⟨6#8, 0#8, 0x08#8, 0#16, 0#8, 0#8⟩ [] = .ok [6#8, 0#8, 8#8, 0#8, 0#8, 0#8, 0#8] := by decide

/-- S1: the views of scenario A, `PLAIN` and `BCD`; V2.6 in `BCD` mode. -/
theorem test_views_scenarioA :
    see (exec (.boilerSetTempResponse headA payloadA) State.reset)
        (fun t => (t.vTemperature, t.vConsigne, t.vYear, t.vMonth, t.vDay)) =
      some (some 10#16, some 190#16, some 35#8, some 4#8, some 35#8) ∧
    see (exec (.boilerSetTempResponse headA payloadA) { State.reset with cfg := { Cfg.reset with dateBcd := true } })
        (fun t => (t.vYear, t.vDateValid)) = some (some 23#8, some true) ∧
    see (exec (.boilerSetTempResponse headA (payloadA.set 5 0x9A#8))
        { State.reset with cfg := { Cfg.reset with dateBcd := true } }) (fun t => (t.vYear, t.vDateValid)) =
      some (none, some false) := by decide

/-! ### Frame rows and the flag byte, one step each -/

/-- A handshake that listens with a received frame in `BUF`. -/
def listening : State := handshake .awaitingBroadcast 0#2 .decoding

/-- A handshake in its confirm loop with a received frame in `BUF`. -/
def confirming : State := { handshake .confirming 2#2 .decoding with retryCnt := 1#16 }

/-- S2: the host's view of the broadcast. -/
theorem test_boilerAssocBroadcast :
    see (exec (.boilerAssocBroadcast headB payloadB) State.reset)
        (fun t => (t.vBcPrefix, t.vNetId, t.consumed, t.variantReg)) =
      some (some 0x04#8, some ⟨0x05#8, 0xD7#8, 0x19#8, 0x9E#8⟩, 12#9, 1#3) := by decide

/-- S4: the latches of a listening sequencer. -/
theorem test_boilerAssocBroadcast_latched :
    see (exec (.boilerAssocBroadcast headB payloadB) listening)
        (fun t => (t.phase, t.bcRequestId, t.bcMsgType, t.bcRoa, t.bcNetId)) =
      some (1#2, 0xD3C8#16, 0x41#8, 0x02#8, ⟨0x05#8, 0xD7#8, 0x19#8, 0x9E#8⟩) := by decide

/-- R160: a set-temperature response ends the confirm loop; R153: it is dropped while listening. -/
theorem test_boilerSetTempResponse :
    see (exec (.boilerSetTempResponse headA payloadA) confirming) (fun t => (t.assoc, t.result, t.busy)) =
      some (.paired, 0#8, false) ∧
    see (exec (.boilerSetTempResponse headA payloadA) listening) (fun t => (t.assoc, t.phase, t.activity)) =
      some (.awaitingBroadcast, 0#2, .sequencing) := by decide

/-- V2.4: no view applies. -/
theorem test_boilerUnknown :
    see (exec (.boilerUnknown ⟨0x80#8, 1#16, 0x81#8, 0x09#8⟩ [0x01#8, 0xAA#8, 0xBB#8]) State.reset)
        (fun t => (t.fr.length, t.plen, t.payloadBytes, t.variantReg, t.consumed)) =
      some (9#8, 3#8, [0x01#8, 0xAA#8, 0xBB#8], 0#3, 10#9) := by decide

/-- V3.2. -/
theorem test_probeInit :
    see (exec (.probeInit ⟨0#8, 0#16, 0xFF#8, 0xFF#8⟩ [0x12#8, 0x34#8]) State.reset)
        (fun t => (t.vInitData, t.familyReg, t.variantReg)) = some (some (0x12#8, 0x34#8), 1#2, 1#3) := by decide

/-- V3.3; R158: in the confirm loop a probe frame only starts the next iteration. -/
theorem test_probeAssocAnnounce :
    see (exec (.probeAssocAnnounce headB payloadB) ready) (fun t => (t.variantReg, t.vInitData)) = some (2#3, none) ∧
    see (exec (.probeAssocAnnounce headB payloadB) confirming) (fun t => (t.assoc, t.phase, t.retryCnt)) =
      some (.confirming, 0#2, 1#16) := by decide

/-- The example of R120. -/
theorem test_probeTempReport :
    see (exec (.probeTempReport ⟨0x80#8, 0x1234#16, 0x01#8, 0x17#8⟩
        [0xAA#8, 0xBB#8, 0xCC#8, 0xDD#8, 0xEE#8, 0xFF#8, 0x11#8, 0x22#8, 0x7B#8, 0x00#8, 0x10#8]) ready)
        (fun t => (t.vExtTemp, t.vFlags, t.variantReg)) = some (some 123#16, some 0x10#8, 3#3) := by decide

/-- V3.6. -/
theorem test_probeUnknown :
    see (exec (.probeUnknown ⟨0x80#8, 1#16, 1#8, 0x17#8⟩ [0x55#8]) State.reset)
        (fun t => (t.familyReg, t.variantReg, t.payloadBytes, t.vFlags)) = some (1#2, 0#3, [0x55#8], none) := by decide

/-- V4.1. -/
theorem test_satelliteTempReport :
    see (exec (.satelliteTempReport .sat09 ⟨0x80#8, 7#16, 1#8, 0x17#8⟩ [0x11#8, 0x22#8, 0x33#8, 0xBA#8]) ready)
        (fun t => (t.fr.fromAddr, t.vFlagFields)) = some (0x09#8, some ⟨5#3, true, 2#2, true, false⟩) := by decide

/-- V4.5. -/
theorem test_satelliteUnknown :
    see (exec (.satelliteUnknown .sat0A ⟨0x80#8, 1#16, 1#8, 0x17#8⟩ [0x55#8]) State.reset)
        (fun t => (t.fr.fromAddr, t.familyReg, t.variantReg)) = some (0x0A#8, 0#2, 0#3) := by decide

/-- V1.9. -/
theorem test_frameIllegalSource :
    see (exec (.frameIllegalSource ⟨8#8, 0x80#8, 0x55#8, 0x8300#16, 1#8, 0x43#8⟩ [0#8, 0#8]) State.reset)
        (fun t => (results t, t.fatal, t.fr)) = some ((3#8, 0#16, 0x55#16, 0#3, 0#9), true, State.resetHead) := by decide

/-- R163. -/
theorem test_frameIllegalSource_listening :
    see (exec (.frameIllegalSource ⟨8#8, 0x80#8, 0x55#8, 0x8300#16, 1#8, 0x43#8⟩ []) listening)
        (fun t => (results t, t.fatal, t.assoc)) = some ((3#8, 0#16, 0x55#16, 1#3, 0#9), true, .failed) := by decide

/-- V1.2 and V1.8. -/
theorem test_frameIllegalLength :
    see (exec (.frameIllegalLength [0x08#8]) State.reset) results = some (2#8, 7#16, 1#16, 0#3, 0#9) ∧
    see (exec (.frameIllegalLength [5#8, 0x80#8, 0x20#8, 0x83#8, 0#8, 1#8, 0x43#8, 0#8]) confirming) results =
      some (2#8, 6#16, 5#16, 5#3, 0#9) := by decide

/-- V1.5. -/
theorem test_frameHeader :
    see (exec (.frameHeader ⟨8#8, 0x80#8, 0x20#8, 0x8300#16, 1#8, 0x43#8⟩ [0#8]) State.reset)
      (fun t => (results t, t.fatal)) = some ((4#8, 8#16, 7#16, 0#3, 0#9), false) := by decide

/-- A state that holds a satellite report of four payload bytes. -/
def reportHeld : State :=
  State.setFrame ready ⟨⟨10#8, 0x80#8, 0x09#8, 7#16, 1#8, 0x17#8⟩, [0x11#8, 0x22#8, 0x33#8, 0xBA#8]⟩

/-- R121: the flag byte is the last payload byte; S5: its value. -/
theorem test_flags :
    see (exec (.flags ⟨0#3, true, 0#2, false, false⟩) reportHeld) (fun t => (t.payloadBytes, t.vFlags)) =
      some ([0x11#8, 0x22#8, 0x33#8, 0x10#8], some 0x10#8) ∧
    see (exec (.flags ⟨0#3, true, 0#2, false, false⟩) State.reset) (fun t => t.mem) = some [] := by decide

/-! ### Transport rows, one step each -/

/-- R130, R146. -/
theorem test_setNetworkId :
    see (exec (.serialNid ⟨0x05#8, 0xD7#8, 0x19#8, 0x9E#8⟩) State.reset) (fun t => t.radioNetId) =
      some ⟨0x05#8, 0xD7#8, 0x19#8, 0x9E#8⟩ ∧
    see (exec (.brokerSetNetworkId NetId.broadcast) State.reset) (fun t => (t.radioNetId, t.seen)) =
      some (NetId.broadcast, [.setNetworkId NetId.broadcast]) := by decide

/-- R131, R140, R147: the frame is transmitted once. -/
theorem test_send :
    see (exec (.serialCmd bytesC) State.reset) (fun t => t.seen) = some [.send bytesC] ∧
    see (exec (.brokerSend bytesC) State.reset) (fun t => t.seen) = some [.send bytesC] := by decide

/-- R132, R139, R144. -/
theorem test_listen :
    see (exec .serialLst State.reset) (fun t => t.seen) = some [.receive] ∧
    see (exec .brokerListen State.reset) (fun t => t.seen) = some [.receive] := by decide

/-- R133, R141, R145. -/
theorem test_sleep :
    see (exec .serialSlp State.reset) (fun t => t.radioStandby) = some true ∧
    see (exec .brokerSleep State.reset) (fun t => t.radioStandby) = some true := by decide

/-- R142, R183: a frame ends `T_RECEIVE`; a malformed line changes nothing. -/
theorem test_serialIncoming :
    see (exec (.serialIncoming [0x61#8, 0x42#8]) (passThrough 0x0A#8 .receive)) (fun t => (t.bufBytes, t.result, t.busy)) =
      some ([0xAB#8], 0#8, false) ∧
    see (exec (.serialIncoming [0x30#8, 0x67#8]) (passThrough 0x0A#8 .receive)) (fun t => (t.busy, t.result)) =
      some (true, 0#8) := by decide

/-- A `T_RECEIVE` that waits on the serial link, with unread characters and a script. -/
def streaming (unread : List Byte) (es : List Event) : State :=
  { passThrough 0x0A#8 .receive with incoming := unread, events := es }

/-- R142: a line that arrives in two pieces is joined. -/
theorem test_serial_pieces :
    see (step (streaming [] [.answer 0 (.ok [0x61#8])])) (fun t => (t.incoming, t.busy)) = some ([0x61#8], true) ∧
    see (step (streaming [0x61#8] [.answer 0 (.ok [0x42#8, 0x0D#8, 0x0A#8])])) (fun t => (t.incoming, t.bufBytes, t.busy)) =
      some ([], [0xAB#8], false) := by decide

/-- R142: of several lines the first is read; a malformed one is discarded and the next turn reads on; what follows a
received frame stays for the next receive. -/
theorem test_serial_lines :
    see (step (streaming [] [.answer 0 (.ok [0x67#8, 0x0D#8, 0x0A#8, 0x61#8, 0x42#8, 0x0D#8, 0x0A#8, 0x0D#8])]))
        (fun t => (t.incoming, t.busy)) = some ([0x61#8, 0x42#8, 0x0D#8, 0x0A#8, 0x0D#8], true) ∧
    see (step (streaming [0x61#8, 0x42#8, 0x0D#8, 0x0A#8, 0x0D#8] [])) (fun t => (t.incoming, t.bufBytes, t.busy)) =
      some ([0x0D#8], [0xAB#8], false) := by decide

/-- R195: an `err` answer in the middle of a line ends the receive; the unread characters stay (log entry 13). -/
theorem test_serial_err :
    see (step (streaming [0x61#8] [.answer 0 .err])) (fun t => (t.incoming, t.result, t.busy)) =
      some ([0x61#8], 6#8, false) := by decide

/-- R213: after a reset a late answer to the old call does not answer the new one. -/
theorem test_late_answer :
    see (step { passThrough 0x07#8 .sleep with issued := 2, events := [.answer 1 .err] }) (fun t => (t.busy, t.result)) =
      some (true, 0#8) ∧
    see (step { streaming [0x61#8] [.reset] with issued := 2 }) (fun t => (t.issued, t.incoming)) = some (2, []) ∧
    see (exec .tSleep { State.reset with issued := 2 }) (fun t => t.issued) = some 3 := by decide

/-- R148: a malformed field is `MalformedHex` with no counts. -/
theorem test_brokerIncoming :
    see (exec (.brokerIncoming [0x30#8, 0x67#8]) (passThrough 0x0A#8 .receive)) (fun t => (results t, t.bufLen)) =
      some ((1#8, 0#16, 0#16, 0#3, 0#9), 0#9) := by decide

/-- R153: a frame that arrives in a handshake goes to the codec. -/
theorem test_brokerIncoming_handshake :
    see (exec (.brokerIncoming [0x61#8, 0x42#8]) (handshake .awaitingBroadcast 0#2 (.waiting .receive)))
      (fun t => (t.bufBytes, t.activity, t.busy)) = some ([0xAB#8], .decoding, true) := by decide

/-! ### Host commands, one step each -/

/-- R173, R204: the results of an earlier command are cleared, FATAL is not. -/
theorem test_nop :
    see (exec .nop { State.reset with result := 3#8, errActual := 0x55#16, status := mkStatus false true true true })
      (fun t => (results t, t.status)) = some ((0#8, 0#16, 0#16, 0#3, 0#9), 0x0A#8) := by decide

/-- V0.2 in registers, and V0.5. -/
theorem test_hexdec :
    see (exec .hexdec (withTxt [0x30#8, 0x62#8, 0x64#8, 0x33#8])) (fun t => (t.bufBytes, t.bufLen, t.result)) =
      some ([0x0B#8, 0xD3#8], 2#9, 0#8) ∧
    see (exec .hexdec (withTxt [0x30#8, 0x67#8])) (fun t => (results t, t.bufLen)) =
      some ((1#8, 0#16, 1#16, 0#3, 0#9), 0#9) := by decide

/-- R175. -/
theorem test_hexenc :
    see (exec .hexenc (withBuf [0x0B#8, 0xD3#8])) (fun t => (t.txtBytes, t.txtLen)) =
      some ([0x30#8, 0x62#8, 0x64#8, 0x33#8], 4#10) := by decide

/-- The example of R176. -/
theorem test_decode :
    see (exec .decode (withBuf bytesC))
        (fun t => (t.fr, t.plen, t.payloadBytes, t.consumed)) =
      some (⟨8#8, 0x80#8, 0x20#8, 0x8300#16, 0x01#8, 0x43#8⟩, 2#8, [0#8, 0#8], 9#9) := by decide

/-- V1.9. -/
theorem test_decode_unknownSource :
    see (exec .decode (withBuf (bytesC.set 2 0x55#8))) (fun t => (results t, t.status)) =
      some ((3#8, 0#16, 0x55#16, 0#3, 0#9), 0x0E#8) := by decide

/-- The example of R177, and V5.3. -/
theorem test_encode :
    see (exec .encode (State.reset.setFrame ⟨⟨8#8, 0x80#8, 0x20#8, 0x8300#16, 0x01#8, 0x43#8⟩, [0#8, 0#8]⟩))
        (fun t => (t.bufBytes, t.result)) = some (bytesC, 0#8) ∧
    see (exec .encode { State.reset with fr := ⟨8#8, 0x80#8, 0x21#8, 0#16, 0#8, 0#8⟩ }) (fun t => (t.result, t.fatal)) =
      some (3#8, true) := by decide

/-- R152, R138: the first call of a handshake. -/
theorem test_assocStart :
    see (exec .assocStart ready) (fun t => (t.status, t.assoc, t.outbound)) =
      some (0x01#8, .idle, [.line ([0x4E#8, 0x49#8, 0x44#8, 0x3A#8, 0x20#8] ++ List.replicate 8 0x66#8 ++ [0x0A#8])]) := by decide

/-- R199: the reset configuration is refused. -/
theorem test_assocStart_refused :
    see (exec .assocStart State.reset) (fun t => (results t, t.outbound)) =
      some ((10#8, 0#16, 0#16, 0#3, 0#9), []) := by decide

/-- R179. -/
theorem test_assocReset :
    see (exec .assocReset { ready with assoc := .failed, retryCnt := 3#16, bcFrom := 0x80#8, result := 7#8 })
      (fun t => (t.assoc, t.retryCnt, t.bcFrom, t.result)) = some (.idle, 0#16, 0#8, 0#8) := by decide

/-- R180, R141. -/
theorem test_tSleep :
    see (exec .tSleep State.reset) (fun t => (t.activity, t.outbound)) =
      some (.waiting .sleep, [.line [0x53#8, 0x4C#8, 0x50#8, 0x3A#8, 0x0A#8]]) := by decide

/-- R181: bytes from index 4 on are ignored; three bytes are too few. -/
theorem test_tSetNid :
    see (exec .tSetNid (withBuf [1#8, 2#8, 3#8, 4#8, 5#8])) (fun t => t.activity) =
      some (.waiting (.setNetworkId ⟨1#8, 2#8, 3#8, 4#8⟩)) ∧
    see (exec .tSetNid (withBuf [1#8, 2#8, 3#8])) (fun t => (results t, t.outbound)) =
      some ((5#8, 4#16, 3#16, 0#3, 0#9), []) := by decide

/-- R182. -/
theorem test_tSend :
    see (exec .tSend (withBuf [0x55#8])) (fun t => t.activity) = some (.waiting (.send [0x55#8])) ∧
    see (exec .tSend State.reset) (fun t => (results t, t.outbound)) = some ((5#8, 1#16, 0#16, 0#3, 0#9), []) := by decide

/-- R183, R144. -/
theorem test_tReceive :
    see (exec .tReceive { State.reset with link := .broker }) (fun t => (t.activity, t.outbound)) =
      some (.waiting .receive, [.envelope .listen none]) := by decide

/-- R184. -/
theorem test_hostIllegal :
    see (exec (.hostIllegal 0xFF#8) State.reset) (fun t => (results t, t.fatal)) =
      some ((8#8, 0#16, 0xFF#16, 0#3, 0#9), false) := by decide

/-! ### Steps of the machine -/

/-- S4: the announce frame of scenario D. -/
theorem test_announce :
    see (step { handshake .awaitingBroadcast 1#2 .sequencing with
        mem := Memory.write [] annBase [1#8, 2#8, 3#8, 4#8, 5#8], bcRequestId := 0xD3C8#16, bcMsgType := 0x41#8
        bcRoa := 0x02#8, bcFrom := 0x80#8 }) (fun t => t.bufBytes) =
      some [0x0B#8, 0x80#8, 0x20#8, 0xD3#8, 0xC8#8, 0x82#8, 0x41#8, 1#8, 2#8, 3#8, 4#8, 5#8] := by decide

/-- The example of R156. -/
theorem test_init :
    see (step { handshake .networkSwitched 0#2 .sequencing with
        cfg := { cfg1 with initRequestId := 0x8300#16 }, bcFrom := 0x80#8 }) (fun t => t.activity) =
      some (.waiting (.send bytesC)) := by decide

/-- R161: with `CFG_MAX_RETRY = 0` the loop fails before any report. -/
theorem test_retryExhausted :
    see (step (handshake .confirming 0#2 .sequencing)) (fun t => (results t, t.assoc)) =
      some ((7#8, 0#16, 0#16, 5#3, 0#9), .failed) := by decide

/-- R185, R211: a busy block ignores the host; reset ends the wait. -/
theorem test_busy_and_reset :
    see (step { passThrough 0x0A#8 .receive with events := [.hostWrite 0x10 0x55#32] }) (fun t => (t.fr, t.busy)) =
      some (State.resetHead, true) ∧
    see (step { passThrough 0x0A#8 .receive with events := [.reset] }) (fun t => (t.busy, t.activity, t.cfg)) =
      some (false, .idle, Cfg.reset) := by decide

/-- R38, R39. -/
theorem test_port :
    see (step { State.reset with events := [.hostWrite 0x30 0xFE#32] }) (fun t => t.cfg.dateBcd) = some false ∧
    see (step { State.reset with events := [.hostWrite 0x20 257#32] }) (fun t => t.bufLen) = some 0#9 ∧
    see (step { State.reset with events := [.hostRead 0x44] }) (fun t => t.portData) = some 0x43#32 := by decide

/-- The tree of states after reset: nothing happens until the host acts (R212). -/
theorem test_quiescent : nextOf (step State.reset) = none := by decide

/-! ### Witnesses: states and operands that meet the hypotheses of each statement, clause by clause -/

def someHead : FrameHead := ⟨0x80#8, 0x1234#16, 0x01#8, 0x17#8⟩

/-- A frame of each of the nine rows, with `Cfg1`. -/
def nineRows : List Instr :=
  [.boilerAssocBroadcast headB payloadB, .boilerSetTempResponse headA payloadA, .boilerUnknown someHead [],
   .probeInit someHead [1#8, 2#8], .probeAssocAnnounce someHead payloadB,
   .probeTempReport someHead [0#8, 1#8, 2#8, 3#8, 4#8, 5#8, 6#8, 7#8, 8#8, 9#8, 0x10#8], .probeUnknown someHead [],
   .satelliteTempReport .sat0A someHead [1#8, 2#8, 3#8, 4#8], .satelliteUnknown .sat08 someHead []]

/-- An instruction of every row is well-formed, at boundary operands. -/
theorem witness_DecodeOfEncodeIsIdentity :
    nineRows.all (WellFormed cfg1) = true ∧
    ([.frameIllegalSource ⟨6#8, 0#8, 0x21#8, 0#16, 0#8, 0#8⟩ [], .frameIllegalLength [], .frameIllegalLength bytesB.tail,
      .frameHeader ⟨7#8, 0#8, 0x0A#8, 0#16, 0#8, 0#8⟩ [], .flags ⟨7#3, true, 3#2, true, true⟩, .serialNid NetId.broadcast,
      .serialLst, .serialCmd [0#8], .serialSlp, .serialIncoming []] : List Instr).all (WellFormed cfg1) = true ∧
    ([.brokerListen, .brokerSleep, .brokerSetNetworkId NetId.zero, .brokerSend [0xFF#8], .brokerIncoming [], .nop, .hexdec,
      .hexenc, .decode, .encode] : List Instr).all (WellFormed cfg1) = true ∧
    ([.assocStart, .assocReset, .tSleep, .tSetNid, .tSend, .tReceive, .hostIllegal 0x0B#8, .hostIllegal 0xFF#8] :
      List Instr).all (WellFormed cfg1) = true := by decide

theorem witness_DecodedInstructionsAreWellFormed :
    ∃ cfg u i, Sys2Proof.decode cfg u = .ok i := ⟨_, _, _, test_decode_scenarioA⟩

/-- An odd text, a bad character at each end of an even text, and a well-formed text. -/
theorem witness_HexDecodeOutcome :
    [0x61#8].length % 2 = 1 ∧
    ([0x67#8, 0x30#8].length % 2 = 0 ∧ hexVal 0x67#8 = none) ∧
    ([0x30#8, 0x67#8].length % 2 = 0 ∧ hexVal 0x30#8 ≠ none) ∧
    (([0x66#8, 0x39#8] : List Byte).length % 2 = 0 ∧ (∀ c ∈ ([0x66#8, 0x39#8] : List Byte), hexVal c ≠ none) ∧
      (([0x66#8, 0x39#8] : List Byte)[0]?).bind hexVal = some 15 ∧
      (([0x66#8, 0x39#8] : List Byte)[1]?).bind hexVal = some 9) := by decide

theorem witness_HexTextRoundTrip : hexDecode [0x61#8, 0x42#8] = .ok [0xAB#8] := test_hexDecode.1

theorem witness_DecodeFrameOutcome : [8#8, 0x80#8, 0x20#8, 0#8, 0#8, 0#8].length < 7 := by decide

/-- The shortest and scenario C's frame. -/
theorem witness_FrameRoundTrip :
    (6 ≤ (6#8 : Byte).toNat ∧ ([] : List Byte).length = (6#8 : Byte).toNat - 6 ∧ familyOf 0x08#8 ≠ none) ∧
    decodeFrame bytesC = .ok (⟨⟨8#8, 0x80#8, 0x20#8, 0x8300#16, 0x01#8, 0x43#8⟩, [0#8, 0#8]⟩, 9) := by decide

/-- `FR` with a source, a length and a `PLEN`, and `Cfg1` or a variant of it. -/
def holding (cfg : Cfg) (source length plen : Byte) : State :=
  { State.reset with cfg := cfg, fr := { State.resetHead with length := length, fromAddr := source }, plen := plen }

theorem witness_BroadcastViews :
    ((holding cfg1 0x80#8 11#8 5#8).fr.fromAddr = 0x80#8 ∧ (holding cfg1 0x80#8 11#8 5#8).fr.length = 11#8 ∧
      (holding cfg1 0x80#8 11#8 5#8).plen = 5#8) ∧
    ¬ ((holding cfg1 0x80#8 12#8 6#8).fr.fromAddr = 0x80#8 ∧ (holding cfg1 0x80#8 12#8 6#8).fr.length = 11#8) := by decide

/-- A set-temperature response with the date bytes given. -/
def dated (bcd : Bool) (y m d : Byte) : State :=
  { holding { cfg1 with dateBcd := bcd } 0x80#8 49#8 43#8 with mem := Memory.write [] 0x1005 [y, m, d] }

/-- Both modes; the digit pair 9, 9; a digit 10 in either half of each byte; another length and another source. -/
theorem witness_SetTempViews :
    ((dated true 0x99#8 0xA0#8 0x0A#8).fr.fromAddr = 0x80#8 ∧ (dated true 0x99#8 0xA0#8 0x0A#8).fr.length = 49#8 ∧
      (dated true 0x99#8 0xA0#8 0x0A#8).plen = 43#8) ∧
    (dated false 0#8 0#8 0#8).cfg.dateBcd = false ∧
    (dated true 0x99#8 0xA0#8 0x0A#8).byteAt 0x1005 = BitVec.ofNat 8 (16 * 9 + 9) ∧
    9 < ((dated true 0x99#8 0xA0#8 0x0A#8).byteAt 0x1006).toNat / 16 ∧
    9 < ((dated true 0x99#8 0xA0#8 0x0A#8).byteAt 0x1007).toNat % 16 ∧
    ¬ ((holding cfg1 0x80#8 50#8 44#8).fr.fromAddr = 0x80#8 ∧ (holding cfg1 0x80#8 50#8 44#8).fr.length = 49#8) ∧
    ¬ ((holding cfg1 0x20#8 49#8 43#8).fr.fromAddr = 0x80#8 ∧ (holding cfg1 0x20#8 49#8 43#8).fr.length = 49#8) := by decide

/-- A probe report whose exterior temperature just fits, and one without payload. -/
theorem witness_ProbeAndSatelliteViews_probe :
    ((holding cfg1 0x20#8 8#8 2#8).fr.length = 8#8 ∧ (holding cfg1 0x20#8 8#8 2#8).plen = 2#8) ∧
    (let s := holding { cfg1 with extTempOff := 9#8 } 0x20#8 17#8 11#8
     HoldsProbeReport s ∧ s.plen = s.cfg.tempPlen ∧ s.cfg.extTempOff.toNat + 2 ≤ s.plen.toNat ∧ 1 ≤ s.plen.toNat) ∧
    (let s := holding { cfg1 with tempPlen := 0#8 } 0x20#8 6#8 0#8
     HoldsProbeReport s ∧ s.plen = s.cfg.tempPlen ∧ s.plen.toNat < s.cfg.extTempOff.toNat + 2 ∧ s.plen.toNat = 0) := by
  unfold HoldsProbeReport; decide

/-- A satellite report with one payload byte and one without; a state that holds none of the shapes. -/
theorem witness_ProbeAndSatelliteViews_satellite :
    (let s := holding { cfg1 with lenSatTemp := 7#8 } 0x0A#8 7#8 1#8
     HoldsSatelliteReport s ∧ s.plen.toNat + 6 = s.fr.length.toNat ∧ 1 ≤ s.plen.toNat) ∧
    (let s := holding { cfg1 with lenSatTemp := 6#8 } 0x08#8 6#8 0#8
     HoldsSatelliteReport s ∧ s.plen.toNat + 6 = s.fr.length.toNat ∧ s.plen.toNat = 0) ∧
    (¬ (State.reset.fr.fromAddr = 0x20#8 ∧ State.reset.fr.length = 8#8) ∧ ¬ HoldsProbeReport State.reset ∧
      ¬ HoldsSatelliteReport State.reset) := by
  unfold HoldsProbeReport HoldsSatelliteReport; decide

theorem witness_HexdecResult :
    ((withTxt [0x61#8, 0x42#8]).txtLen.toNat ≤ 512 ∧ hexDecode (withTxt [0x61#8, 0x42#8]).txtBytes = .ok [0xAB#8]) ∧
    (withTxt [0x61#8]).txtLen.toNat ≤ 512 ∧ hexDecode (withTxt [0x61#8]).txtBytes = .error ⟨.malformedHex, 0, 1⟩ ∧
    ({ State.reset with txtLen := 512#10 } : State).txtLen.toNat ≤ 512 := by decide

theorem witness_HexencResult : ({ State.reset with bufLen := 256#9 } : State).bufLen.toNat ≤ 256 := by decide

theorem witness_DecodeResult :
    decodeFrame (withBuf bytesC).bufBytes = .ok (⟨⟨8#8, 0x80#8, 0x20#8, 0x8300#16, 0x01#8, 0x43#8⟩, [0#8, 0#8]⟩, 9) ∧
    decodeFrame (withBuf []).bufBytes = .error ⟨.malformedHeader, 7, 0⟩ := by decide

/-- A state that holds scenario C's frame. -/
def holdingC : State := State.reset.setFrame ⟨⟨8#8, 0x80#8, 0x20#8, 0x8300#16, 0x01#8, 0x43#8⟩, [0#8, 0#8]⟩

theorem witness_EncodeResult :
    encodeFrame holdingC.fr holdingC.payloadBytes = .ok bytesC ∧
    encodeFrame State.reset.fr State.reset.payloadBytes = .error ⟨.unknownSource, 0, 0⟩ ∧
    see (exec .decode (withBuf bytesC)) (fun t => t.result) = some 0#8 := by decide

theorem witness_AssocStartRefused :
    (∃ s : State, s.assoc ≠ .idle) ∧ ∃ s : State, s.assoc = .idle ∧ ¬ TemplatesReady s.cfg :=
  ⟨⟨{ ready with assoc := .paired }, by decide⟩, ⟨{ ready with cfg := { cfg1 with extTempOff := 10#8 } }, rfl, by
    simp [TemplatesReady, cfg1, Cfg.reset]⟩⟩

/-- The templates of `Cfg1` are ready, and so they are at the largest lengths and the largest offset. -/
theorem templatesReady_boundary :
    TemplatesReady cfg1 ∧ TemplatesReady { cfg1 with annPlen := 249#8, tempPlen := 249#8, extTempOff := 247#8 } := by
  simp [TemplatesReady, cfg1, Cfg.reset]

theorem witness_CommandsMakeTheirCall :
    (ready.assoc = .idle ∧ TemplatesReady ready.cfg) ∧ 4 ≤ (withBuf [1#8, 2#8, 3#8, 4#8]).bufLen.toNat ∧
      (withBuf [1#8]).bufLen ≠ 0#9 := ⟨⟨rfl, templatesReady_boundary.1⟩, by decide, by decide⟩

theorem witness_LengthMismatchRaised :
    (familyOf (holding cfg1 0x20#8 9#8 2#8).fr.fromAddr ≠ none ∧
      (holding cfg1 0x20#8 9#8 2#8).fr.length.toNat ≠ 6 + (holding cfg1 0x20#8 9#8 2#8).plen.toNat) ∧
    (withBuf [1#8, 2#8, 3#8]).bufLen.toNat < 4 ∧ State.reset.bufLen = 0#9 := by decide

theorem witness_IllegalCommandHasNoOtherEffect : 0x0B ≤ (0x0B#8 : Byte).toNat ∧ 0x0B ≤ (0xFF#8 : Byte).toNat := by decide

/-- A word with bits above bit 7 set. -/
theorem witness_WritingCmdStartsTheCommand :
    (∃ s : State, s.busy = false ∧ s.events = .hostWrite 0x00 0xFFFFFF0A#32 :: []) ∧ 0x0B ≤ (0x0B#8 : Byte).toNat :=
  ⟨⟨{ State.reset with events := [.hostWrite 0x00 0xFFFFFF0A#32] }, by decide⟩, by decide⟩

/-- A busy state with a script: the call is outstanding and the transport has taken it. -/
def busyWith (es : List Event) : State := { passThrough 0x0A#8 .receive with events := es }

/-- Reads while BUSY and not, of a register and of a view that does not apply. -/
theorem witness_BusyIgnoresTheHost :
    (busyWith [.hostWrite 0x10 1#32]).busy = true ∧
    ((busyWith [.hostRead 0x01]).reading 0x01 = .value 1#32 ∧ State.reset.busy = false ∧
      State.reset.reading 0x5B = .unspecified 3) ∧
    ((busyWith [.turn]).activity = .waiting .receive ∧ (busyWith [.turn]).outbound = [] ∧
      (busyWith [.turn]).lineDue.isNone = true) ∧
    (busyWith [.reset]).busy = true := by decide

/-- A view with a value and one without; the last valid element of an array and the first at its length. -/
theorem witness_PortReadsTheRegisters :
    (holdingC.vInitData = some (0#8, 0#8) ∧ holdingC.vFlags = none ∧ holdingC.assoc = .idle) ∧
    (1 < holdingC.plen.toNat ∧ holdingC.plen.toNat ≤ 2) ∧
    ((holding { cfg1 with annPlen := 255#8 } 0#8 0#8 255#8).plen.toNat = 255 ∧
      ({ State.reset with bufLen := 256#9 } : State).bufLen.toNat = 256) := by decide

theorem witness_HangAndQuiescence :
    ((busyWith []).outbound = [] ∧ (busyWith []).events = [] ∧ (busyWith []).activity = .waiting .receive ∧
      (busyWith []).lineDue.isNone = true) ∧
    (State.reset.outbound = [] ∧ State.reset.events = [] ∧ State.reset.activity = .idle) := by decide

/-- A state in which the host's next act is a write. -/
def writing (n : Nat) (v : PortWord) : State := { ready with events := [.hostWrite n v] }

/-- The first and last scalar; the two lengths at their bounds, above them, and at words whose low bits are in range (512 cut
to 9 bits and 1024 cut to 10 bits are 0); the first and last array elements. -/
theorem witness_RegistersReadBack :
    ((writing 0x10 0xFFFFFFFF#32).busy = false ∧ (writing 0x4B 0x1FF#32).busy = false) ∧
    ((256#32 : PortWord).toNat ≤ 256 ∧ ¬ (257#32 : PortWord).toNat ≤ 256) ∧
    ((512#32 : PortWord).toNat ≤ 512 ∧ ¬ (513#32 : PortWord).toNat ≤ 512) ∧
    (¬ (512#32 : PortWord).toNat ≤ 256 ∧ (512#32 : PortWord).setWidth 9 = 0#9 ∧ ¬ (1024#32 : PortWord).toNat ≤ 512 ∧
      (1024#32 : PortWord).setWidth 10 = 0#10 ∧ (writing 0x20 512#32).busy = false ∧ (writing 0x21 1024#32).busy = false) ∧
    (inArray 0x1000 = true ∧ inArray 0x10F8 = true ∧ inArray 0x1100 = true ∧ inArray 0x13FF = true ∧
      inArray 0x15F8 = true) := by decide

/-- The bounds of the reserved ranges and of the read-only ones. -/
theorem witness_ReservedAndReadOnlyNumbers :
    ([0x0E, 0x0F, 0x19, 0x1F, 0x22, 0x2F, 0x38, 0x3F, 0x4C, 0x4F, 0x60, 0xFFF, 0x10F9, 0x10FF, 0x14F9, 0x14FF, 0x15F9] :
      List Nat).all (fun n =>
        decide ((0x0D < n ∧ n < 0x10) ∨ (0x18 < n ∧ n < 0x20) ∨ (0x21 < n ∧ n < 0x30) ∨ (0x37 < n ∧ n < 0x40) ∨
          (0x4B < n ∧ n < 0x50) ∨ (0x5F < n ∧ n < 0x1000) ∨ (0x10F8 < n ∧ n < 0x1100) ∨ (0x14F8 < n ∧ n < 0x1500) ∨
          0x15F8 < n)) = true ∧
    ([0x01, 0x0D, 0x17, 0x18, 0x50, 0x5F] : List Nat).all (fun n =>
        decide ((0x01 ≤ n ∧ n ≤ 0x0D) ∨ n = 0x17 ∨ n = 0x18 ∨ (0x50 ≤ n ∧ n ≤ 0x5F))) = true := by decide

theorem witness_FrameRowsLoadTheFrame :
    State.reset.activity ≠ .decoding ∧ (List.replicate 249 (0#8 : Byte)).length ≤ 249 :=
  ⟨by decide, by rw [List.length_replicate]⟩

theorem witness_ListeningAcceptsTheBroadcast :
    listening.activity = .decoding ∧ listening.assoc = .awaitingBroadcast := by decide

theorem witness_ListeningDropsOtherFrames :
    listening.activity = .decoding ∧ listening.assoc = .awaitingBroadcast ∧ nineRows.tail.all (WellFormed listening.cfg) = true := by
  decide

/-- Frames of a boiler and of the other families. -/
theorem witness_ConfirmingEndsOnAnyBoilerFrame :
    confirming.activity = .decoding ∧ confirming.assoc = .confirming ∧ ([] : List Byte).length ≤ 249 ∧
    (frameOf 0x80#8 someHead []).head.fromAddr = 0x80#8 ∧ (frameOf 0x20#8 someHead []).head.fromAddr ≠ 0x80#8 ∧
    (frameOf (satByte .sat08) someHead []).head.fromAddr ≠ 0x80#8 := by decide

theorem witness_IllegalFramesEndTheCommand :
    State.reset.activity ≠ .decoding ∧ [8#8, 0#8, 0#8, 0#8, 0#8, 0#8].length < 7 ∧
      6 ≤ [0#8, 0#8, 0#8, 0#8, 0#8, 0#8].length := by decide

/-- A handshake that waits for a frame, and the bad text of R148. -/
theorem witness_DecodeFailureFailsTheHandshake :
    listening.activity = .decoding ∧
    (handshake .confirming 2#2 (.waiting .receive)).awaitsFrame = true ∧
    (handshake .confirming 2#2 (.waiting .receive)).cmd = 0x05#8 ∧
    hexDecode [0x61#8] = .error ⟨.malformedHex, 0, 1⟩ := by decide

/-- A report with 1 and with 249 payload bytes; no report; a report of no byte and of 250. -/
theorem witness_FlagsWritesTheLastPayloadByte :
    (let s := holding { cfg1 with lenSatTemp := 7#8 } 0x08#8 7#8 1#8
     s.selectsTempReport = true ∧ 1 ≤ s.plen.toNat ∧ s.plen.toNat ≤ 249) ∧
    (let s := holding { cfg1 with tempPlen := 249#8 } 0x20#8 255#8 249#8
     s.selectsTempReport = true ∧ 1 ≤ s.plen.toNat ∧ s.plen.toNat ≤ 249) ∧
    State.reset.selectsTempReport = false ∧ (holding cfg1 0x20#8 17#8 0#8).plen.toNat = 0 ∧
    249 < (holding cfg1 0x20#8 17#8 250#8).plen.toNat := by decide

theorem witness_OutgoingRowsReachTheRadio : State.reset.radioStandby = false := rfl

/-- A call of each kind on the link, before a turn and with the script at its end. -/
theorem witness_TakingAnIssuedCall :
    (let s := { busyWith [.turn] with outbound := [wireForm .serial true (.send [0#8])] }
     s.outbound = wireForm .serial true (.send [0#8]) :: [] ∧ s.events = .turn :: [] ∧ 1 ≤ [0#8].length) ∧
    (let s := { busyWith [] with outbound := [wireForm .broker false .receive] }
     s.outbound = wireForm .broker false .receive :: [] ∧ s.events = []) := by decide

theorem witness_IncomingRowsDeliver :
    ((busyWith []).awaitsFrame = true ∧ (busyWith []).cmd ≠ 0x05#8 ∧ hexDecode [] = .ok [] ∧
      hexDecode [0x30#8, 0x67#8] = .error ⟨.malformedHex, 0, 1⟩) ∧
    State.reset.awaitsFrame = false := by decide

theorem witness_TransportFailureRecorded :
    ((busyWith [.answer 0 .err]).activity = .waiting .receive ∧ (busyWith [.answer 0 .err]).outbound = [] ∧
      (busyWith [.answer 0 .err]).events = .answer 0 .err :: []) ∧
    ({ handshake .announced 0#2 (.waiting (.setNetworkId NetId.zero)) with events := [.answer 0 .err] } : State).activity =
      .waiting (.setNetworkId NetId.zero) := by decide

/-- An answer to another call, one nobody waits for, one before the call is taken; a step that makes a call. -/
theorem witness_UnexpectedAnswersAreIgnored :
    (∃ s : State, s.events = .answer 0 .err :: [] ∧ 0 ≠ s.issued ∧ s.activity = .waiting .receive) ∧
    (∃ s : State, s.events = .answer 0 .err :: [] ∧ ∀ c, s.activity ≠ .waiting c) ∧
    (∃ s : State, s.events = .answer 0 (.ok []) :: [] ∧ s.outbound ≠ []) ∧
    ∃ s t : State, step s = .next t ∧ t.activity = .waiting .sleep :=
  ⟨⟨{ busyWith [.answer 0 .err] with issued := 1 }, by decide⟩,
    ⟨{ State.reset with events := [.answer 0 .err] }, rfl, by intro c h; cases h⟩,
    ⟨{ busyWith [.answer 0 (.ok [])] with outbound := [.line []] }, by decide⟩,
    ⟨{ State.reset with events := [.hostWrite 0 7#32] }, _, rfl, rfl⟩⟩

/-- A piece that completes no line, one that completes the empty line, and a line that waits unread. -/
theorem witness_SerialStreamIsReadLineByLine :
    ((streaming [] [.answer 0 (.ok [0x0D#8])]).link = .serial ∧
      (streaming [] [.answer 0 (.ok [0x0D#8])]).activity = .waiting .receive ∧
      (streaming [] [.answer 0 (.ok [0x0D#8])]).outbound = [] ∧ (streaming [] []).issued = 0) ∧
    (¬ [0x0D#8, 0x0A#8] <:+: ([] ++ [0x0D#8] : List Byte) ∧ ¬ [0x0D#8, 0x0A#8] <:+: ([] : List Byte)) ∧
    ([0x0D#8] ++ [0x0A#8, 0x61#8] : List Byte) = [] ++ [0x0D#8, 0x0A#8] ++ [0x61#8] := by decide

theorem witness_SequencerCalls :
    ([(AssocState.awaitingBroadcast, 0#2), (.announced, 0#2), (.initialized, 0#2), (.confirming, 2#2)] :
      List (AssocState × BitVec 2)).all (fun e =>
        let s := handshake e.1 e.2 .sequencing
        decide (s.activity = .sequencing) && decide (s.assoc = e.1) && decide (s.phase = e.2) &&
          decide (s.outbound = []) && decide (s.events = [])) = true := by decide

theorem witness_AnnounceAndInitFramesSent :
    (let s := { handshake .awaitingBroadcast 1#2 .sequencing with cfg := { cfg1 with annPlen := 249#8 } }
     s.activity = .sequencing ∧ s.assoc = .awaitingBroadcast ∧ s.phase = 1#2 ∧ s.cfg.annPlen.toNat ≤ 249 ∧
       s.outbound = [] ∧ s.events = []) ∧
    (let s := handshake .networkSwitched 0#2 .sequencing
     s.activity = .sequencing ∧ s.assoc = .networkSwitched ∧ s.outbound = [] ∧ s.events = []) := by decide

theorem witness_ReportFrameSent :
    ∃ s : State, s.activity = .sequencing ∧ s.assoc = .confirming ∧ s.phase = 1#2 ∧ TemplatesReady s.cfg ∧
      s.outbound = [] ∧ s.events = [] :=
  ⟨handshake .confirming 1#2 .sequencing, rfl, rfl, rfl, templatesReady_boundary.1, rfl, rfl⟩

/-- At the bound and one below it. -/
theorem witness_RetryBound :
    (let s := { handshake .confirming 0#2 .sequencing with cfg := { cfg1 with maxRetry := 0xFFFF#16 }, retryCnt := 0xFFFF#16 }
     s.activity = .sequencing ∧ s.assoc = .confirming ∧ s.phase = 0#2 ∧ s.cfg.maxRetry.toNat ≤ s.retryCnt.toNat ∧
       s.outbound = [] ∧ s.events = []) ∧
    (let s := { handshake .confirming 0#2 .sequencing with cfg := { cfg1 with maxRetry := 0xFFFF#16 }, retryCnt := 0xFFFE#16 }
     s.activity = .sequencing ∧ s.assoc = .confirming ∧ s.phase = 0#2 ∧ s.retryCnt.toNat < s.cfg.maxRetry.toNat ∧
       s.outbound = [] ∧ s.events = []) := by decide

/-- A pass-through sleep, and a handshake in each state that awaits an `ok`. -/
theorem witness_OkAnswersAdvance :
    (let s := { passThrough 0x07#8 .sleep with events := [.answer 0 (.ok [])] }
     s.activity = .waiting .sleep ∧ s.outbound = [] ∧ s.cmd ≠ 0x05#8) ∧
    ([.idle, .awaitingBroadcast, .announced, .networkSwitched, .confirming] : List AssocState).all (fun a =>
        let s := { handshake a 0#2 (.waiting (.setNetworkId NetId.zero)) with events := [.answer 0 (.ok [])] }
        decide (s.cmd = 0x05#8) && decide (s.assoc = a) && decide (s.outbound = [])) = true := by decide

/-- A step by which a listening sequencer goes on to the announce; one in a state with the invariant. -/
theorem witness_OnlyABroadcastReachesTheAnnounce :
    (∃ s t : State, step s = .next t ∧ s.assoc = .awaitingBroadcast ∧ s.phase = 0#2 ∧ t.assoc = .awaitingBroadcast ∧
      t.phase ≠ 0#2) ∧
    ∃ s t : State, step s = .next t ∧ s.assoc = .awaitingBroadcast ∧ s.phase = 0#2 ∧ s.Inv :=
  ⟨⟨listening.setBuf bytesB, _, rfl, rfl, rfl, rfl, by decide⟩,
    ⟨listening, _, rfl, rfl, rfl, by constructor <;> decide⟩⟩

/-- A sequencer that has paired, its command over; the invariant holds. -/
def pairedState : State := { ready with cmd := 0x05#8, status := mkStatus false true false false, assoc := .paired }

theorem pairedState_inv : pairedState.Inv := by constructor <;> decide

/-- A step into `Paired`, and one out of it. -/
theorem witness_PairedOnlyByABoilerFrame :
    (∃ s t : State, step s = .next t ∧ t.assoc = .paired ∧ s.assoc ≠ .paired) ∧
    ∃ s t : State, step s = .next t ∧ s.Inv ∧ s.assoc = .paired ∧ t.assoc = .idle :=
  ⟨⟨confirming.setBuf bytesB, _, rfl, rfl, by decide⟩,
    ⟨{ pairedState with events := [.hostWrite 0 0x06#32] }, _, rfl,
      ⟨by decide, by decide, by decide, by decide, by decide, by decide, by decide, by decide, by decide, by decide⟩,
      rfl, rfl⟩⟩

/-- A unit of each place the next instruction can come from. -/
theorem witness_StepRunsTheDecodedInstruction :
    (∃ (s s1 : State) (u : Encoded) (i : Instr), s.fetch = some (u, s1) ∧ Sys2Proof.decode s1.cfg u = .ok i) ∧
    (∃ s : State, s.outbound = [] ∧ s.activity = .decoding ∧ s.events = .turn :: []) ∧
    (∃ s : State, s.busy = false ∧ s.events = .hostWrite 0x00 0xFFFFFF0A#32 :: []) ∧
    (∃ s : State, s.busy = false ∧ s.flagOffset = some 3 ∧ s.events = .hostWrite (0x1000 + 3) 0x1BA#32 :: []) ∧
    (busyWith [.answer 0 (.ok [])]).activity = .waiting .receive ∧ (busyWith [.answer 0 (.ok [])]).outbound = [] :=
  ⟨⟨{ State.reset with events := [.hostWrite 0 0#32] }, _, _, _, rfl, rfl⟩,
    ⟨{ listening with events := [.turn] }, rfl, rfl, rfl⟩, witness_WritingCmdStartsTheCommand.1,
    ⟨{ reportHeld with events := [.hostWrite 0x1003 0x1BA#32] }, by decide⟩, rfl, rfl⟩

/-- The invariant holds in the middle of a handshake, and the machine goes on from there. -/
theorem witness_InvKeptByEveryStep : ∃ s t : State, s.Inv ∧ s.activity = .decoding ∧ step s = .next t :=
  ⟨listening, _, by constructor <;> decide, rfl, rfl⟩

theorem witness_ResetPutsEveryRegister : (busyWith [.reset]).events = .reset :: [] := rfl

/-- FATAL set and a step that is not reset; a step that sets FATAL. -/
theorem witness_FatalIsSticky :
    (∃ s t : State, step s = .next t ∧ s.fatal = true ∧ ∀ es, s.events ≠ .reset :: es) ∧
    ∃ s t : State, step s = .next t ∧ s.fatal = false ∧ t.fatal = true :=
  ⟨⟨{ State.reset with status := mkStatus false true true true, events := [.hostWrite 0 0#32] }, _, rfl, by decide, by
      intro es h; simp at h⟩,
    ⟨{ withBuf (bytesC.set 2 0x55#8) with events := [.hostWrite 0 3#32] }, _, rfl, by decide, by decide⟩⟩

/-- A busy step, and a command of an idle block. -/
theorem witness_ConfigurationIsTheHosts :
    (∃ s t : State, step s = .next t ∧ (∀ es, s.events ≠ .reset :: es) ∧ s.busy = true) ∧
    ∃ s t : State, step s = .next t ∧ (∀ es, s.events ≠ .reset :: es) ∧
      ∀ n v es, s.events = .hostWrite n v :: es → n = 0 :=
  ⟨⟨listening.setBuf bytesB, _, rfl, (by intro es h; cases h), by decide⟩,
    ⟨{ State.reset with events := [.hostWrite 0 1#32] }, _, rfl, by intro es h; simp at h, by
      intro n v es h; simp at h; exact h.1.1.symm⟩⟩

theorem witness_RadioIdentityIsHidden :
    ∃ s t : State, s ≠ t ∧ s.hideRadio = t.hideRadio :=
  ⟨listening, { listening with radioNetId := NetId.broadcast }, by decide, rfl⟩

/-- A taken call moves the identity. -/
theorem witness_OnlySetNetworkIdMovesTheRadio :
    ∃ s t : State, step s = .next t ∧ t.radioNetId ≠ s.radioNetId :=
  ⟨{ State.reset with outbound := [wireForm .broker false (.setNetworkId NetId.broadcast)] }, _, rfl, by decide⟩

/-- So does an `err` answer, from one identity at least: whatever the open value is, it differs from one of two. -/
theorem witness_OnlySetNetworkIdMovesTheRadio_err :
    ∃ s t : State, (∃ es, s.activity = .waiting (.setNetworkId NetId.zero) ∧ s.events = .answer s.issued .err :: es) ∧
      step s = .next t ∧ t.radioNetId ≠ s.radioNetId := by
  by_cases h : Config.openNetId 0 = NetId.zero
  · exact ⟨{ passThrough 0x08#8 (.setNetworkId NetId.zero) with
        radioNetId := NetId.broadcast, events := [.answer 0 .err] }, _, ⟨[], rfl, rfl⟩, rfl, by
      show Config.openNetId 0 ≠ NetId.broadcast
      rw [h]; decide⟩
  · exact ⟨{ passThrough 0x08#8 (.setNetworkId NetId.zero) with
        radioNetId := NetId.zero, events := [.answer 0 .err] }, _, ⟨[], rfl, rfl⟩, rfl, h⟩

end Sys2Proof.Tests.Slice0
end

section
/-! PROOFS. The statements of 10_state.md on the derived registers `FAMILY` and `VARIANT`, on reset, and on `CMD`. -/

namespace Sys2Proof.Machine

/-- A register number of the map reads as its register (R38). -/
theorem State.reading_of_regOf (s : State) {n : Nat} {r : Reg} (h : regOf n = some r) : s.reading n = s.readReg r := by
  rw [State.reading, h]

/-! ### The derived registers -/

/-- The address table of R99, address by address. -/
theorem familyOf_cases (a : Byte) :
    ((a = 0x08#8 ∨ a = 0x09#8 ∨ a = 0x0A#8) ∧ familyOf a = some .satellite) ∨
    (a = 0x20#8 ∧ familyOf a = some .probe) ∨
    (a = 0x80#8 ∧ familyOf a = some .boiler) ∨
    ((¬ (a = 0x08#8 ∨ a = 0x09#8 ∨ a = 0x0A#8) ∧ a ≠ 0x20#8 ∧ a ≠ 0x80#8) ∧ familyOf a = none) := by
  unfold familyOf
  split_ifs with hsat hprobe hboiler
  · exact .inl ⟨hsat, rfl⟩
  · exact .inr (.inl ⟨hprobe, rfl⟩)
  · exact .inr (.inr (.inl ⟨hboiler, rfl⟩))
  · exact .inr (.inr (.inr ⟨⟨hsat, hprobe, hboiler⟩, rfl⟩))

/-- The length table of the boiler family, as `VARIANT` shows it (R19, R100). -/
theorem variantCode_boiler (len : Byte) (cfg : Cfg) :
    (variantCode .boiler (variantOf .boiler len cfg)).setWidth 32 =
      if len = 11#8 then 1#32 else if len = 49#8 then 2#32 else 0#32 := by
  simp only [variantOf, BitVec.toNat_eq, BitVec.toNat_ofNat, Nat.reducePow, Nat.reduceMod]
  split_ifs <;> rfl

/-- The length table of the probe family: init, announce and report, in this order (R19, R100). -/
theorem variantCode_probe (len : Byte) (cfg : Cfg) :
    (variantCode .probe (variantOf .probe len cfg)).setWidth 32 =
      if len = 8#8 then 1#32
      else if cfg.annEn = true ∧ len.toNat = 6 + cfg.annPlen.toNat then 2#32
      else if cfg.tempEn = true ∧ len.toNat = 6 + cfg.tempPlen.toNat then 3#32 else 0#32 := by
  simp only [variantOf, BitVec.toNat_eq, BitVec.toNat_ofNat, Nat.reducePow, Nat.reduceMod]
  split_ifs <;> rfl

/-- The length table of the satellite family (R19, R100). -/
theorem variantCode_satellite (len : Byte) (cfg : Cfg) :
    (variantCode .satellite (variantOf .satellite len cfg)).setWidth 32 =
      if cfg.satTempEn = true ∧ len = cfg.lenSatTemp then 1#32 else 0#32 := by
  simp only [variantOf]
  split_ifs <;> rfl

/-- Settles O11: the four rows of the address table, and the length table of the row's family. -/
theorem familyAndVariantRegisters : Obligations.FamilyAndVariantRegisters := by
  intro s
  rw [s.reading_of_regOf (r := .family) rfl, s.reading_of_regOf (r := .variant) rfl]
  simp only [State.readReg, State.familyReg, State.variantReg, State.family, readingOf]
  rcases familyOf_cases s.fr.fromAddr with ⟨ha, hf⟩ | ⟨ha, hf⟩ | ⟨ha, hf⟩ | ⟨⟨hsat, hprobe, hboiler⟩, hf⟩ <;>
    simp only [hf]
  · have hboiler : s.fr.fromAddr ≠ 0x80#8 := by rcases ha with h | h | h <;> simp [h]
    have hprobe : s.fr.fromAddr ≠ 0x20#8 := by rcases ha with h | h | h <;> simp [h]
    rw [if_pos ha, if_neg hboiler, if_neg hprobe, if_pos ha, variantCode_satellite]
    exact ⟨rfl, rfl⟩
  · rw [ha, variantCode_probe]
    exact ⟨rfl, rfl⟩
  · rw [ha, variantCode_boiler]
    exact ⟨rfl, rfl⟩
  · simp only [if_neg hsat, if_neg hprobe, if_neg hboiler]
    exact ⟨rfl, rfl⟩

/-! ### Reset -/

/-- The step in which the reset input is asserted (R211). -/
theorem step_reset (s : State) (es : List Event) (h : s.events = .reset :: es) :
    step s = .next (s.withEvents es).assertReset := by
  simp only [step, State.fetch, h, State.runEvent]

/-- Every scalar register reads after a reset as in the reset state: none of them depends on what reset keeps. -/
theorem State.readReg_assertReset (s : State) (r : Reg) (hr : ∀ a, r ≠ .element a) :
    s.assertReset.readReg r = State.reset.readReg r := by
  cases r with
  | element a => exact absurd rfl (hr a)
  | _ => rfl

/-- The `reset` column of the register map (R38). -/
def resetColumn : List (Nat × PortWord) :=
  [(0x00, 0#32), (0x01, 0#32), (0x02, 0#32), (0x03, 0#32), (0x04, 0#32), (0x05, 0#32), (0x06, 0#32), (0x07, 0#32),
   (0x08, 0#32), (0x09, 0#32), (0x0A, 0#32), (0x0B, 0#32), (0x0C, 0#32), (0x0D, 0#32)] ++
  [(0x10, 0#32), (0x11, 0#32), (0x12, 0#32), (0x13, 0#32), (0x14, 0#32), (0x15, 0#32), (0x16, 0#32), (0x17, 3#32),
   (0x18, 0#32), (0x20, 0#32), (0x21, 0#32)] ++
  [(0x30, 0#32), (0x31, 0#32), (0x32, 0#32), (0x33, 0#32), (0x34, 0#32), (0x35, 0#32), (0x36, 0#32), (0x37, 0#32),
   (0x40, 0#32), (0x41, 0#32), (0x42, 0#32), (0x43, 0x01#32), (0x44, 0x43#32), (0x45, 0#32), (0x46, 0#32),
   (0x47, 0#32), (0x48, 0#32), (0x49, 0#32), (0x4A, 0#32), (0x4B, 0#32)]

/-- What the lookup finds is an entry of the list. -/
theorem findReg_mem (l : List (Nat × Reg)) (n : Nat) (r : Reg) (h : findReg l n = some r) : (n, r) ∈ l := by
  induction l with
  | nil => cases h
  | cons e l ih =>
    unfold findReg at h
    split_ifs at h with he
    · cases h; subst he; exact List.mem_cons_self
    · exact List.mem_cons_of_mem _ (ih h)

/-- A register whose number lies outside the arrays is no array element. -/
theorem regOf_ne_element (n : Nat) (r : Reg) (hn : inArray n = false) (h : regOf n = some r) (a : Nat) :
    r ≠ .element a := by
  rw [regOf, hn] at h
  rintro rfl
  have := findReg_mem _ _ _ h
  simp [scalarRegs] at this

/-- After a reset the port reads outside the arrays as it does in the reset state. -/
theorem State.reading_assertReset (s : State) (n : Nat) (hn : inArray n = false) :
    s.assertReset.reading n = State.reset.reading n := by
  unfold State.reading
  cases h : regOf n with
  | none => rfl
  | some r => exact s.readReg_assertReset r (regOf_ne_element n r hn h)

/-- The reset state reads as the `reset` column says (R41). -/
theorem State.reset_reading : ∀ p ∈ resetColumn, inArray p.1 = false ∧ State.reset.reading p.1 = .value p.2 := by
  decide

/-- Settles O56: the reset state reads as the `reset` column says, and what the port shows of a state just reset does not
depend on the state before. -/
theorem resetPutsEveryRegister : Obligations.ResetPutsEveryRegister := by
  intro s es h
  refine ⟨_, step_reset s es h, fun n v hm => ?_, rfl, rfl, fun _ => rfl, rfl, rfl, rfl, rfl⟩
  obtain ⟨hn, hv⟩ := State.reset_reading (n, v) hm
  rw [State.reading_assertReset _ n hn, hv]

/-! ### The command register -/

/-- A word written to `CMD` outside a command brings up the code in its low eight bits (R27, R39). -/
theorem State.fetch_write_cmd (s : State) (v : PortWord) (es : List Event) (hb : s.busy = false)
    (h : s.events = .hostWrite 0x00 v :: es) : s.fetch = some (.hostCmd (v.setWidth 8), s.withEvents es) := by
  have hb' : (s.withEvents es).busy = false := hb
  simp [State.fetch, h, State.fetchWrite, hb']

/-- The codes above those of the eleven commands are illegal (R86, R184). -/
theorem decodeHostCmd_illegal (c : Byte) (h : 0x0B ≤ c.toNat) : decodeHostCmd c = .hostIllegal c := by
  unfold decodeHostCmd
  split <;> try omega
  rfl

/-- Settles O25: the fetch of a write to `CMD`, and the command table of R86 row by row. -/
theorem writingCmdStartsTheCommand : Obligations.WritingCmdStartsTheCommand := by
  intro s v c es
  refine ⟨s.reading_of_regOf (r := .cmd) rfl, fun hb he => ?_, by decide, decodeHostCmd_illegal c⟩
  rw [step, s.fetch_write_cmd v es hb he]
  rfl

end Sys2Proof.Machine
end

section
/-! PROOFS. The statements of 41_metadata_codec.md: the outcomes of `EncodeFrame`. -/

namespace Sys2Proof.Machine

/-- The addresses that stand in no row of the table of R99. -/
theorem familyOf_eq_none_iff (a : Byte) :
    familyOf a = none ↔ a ≠ 0x08#8 ∧ a ≠ 0x09#8 ∧ a ≠ 0x0A#8 ∧ a ≠ 0x20#8 ∧ a ≠ 0x80#8 := by
  rcases familyOf_cases a with ⟨rfl | rfl | rfl, hf⟩ | ⟨rfl, hf⟩ | ⟨rfl, hf⟩ | ⟨⟨hsat, hprobe, hboiler⟩, hf⟩
  case inr.inr.inr =>
    obtain ⟨h08, h09, h0A⟩ : a ≠ 0x08#8 ∧ a ≠ 0x09#8 ∧ a ≠ 0x0A#8 := by simpa only [not_or] using hsat
    exact iff_of_true hf ⟨h08, h09, h0A, hprobe, hboiler⟩
  all_goals simp [hf]

/-- R104: the source is checked first, whatever the length says. -/
theorem encodeFrame_of_unknownSource (m : Metadata) (p : List Byte) (hsrc : familyOf m.fromAddr = none) :
    encodeFrame m p = .error ⟨.unknownSource, 0, m.fromAddr.toNat⟩ := by
  rw [encodeFrame, if_pos hsrc]

/-- R104: the length byte of a known source counts the six header bytes after it and the payload. -/
theorem encodeFrame_of_lengthMismatch (m : Metadata) (p : List Byte) (hsrc : familyOf m.fromAddr ≠ none)
    (hlen : m.length.toNat ≠ 6 + p.length) :
    encodeFrame m p = .error ⟨.lengthMismatch, 6 + p.length, m.length.toNat⟩ := by
  rw [encodeFrame, if_neg hsrc, if_pos hlen]

/-- R104: past both checks the frame is its header followed by its payload. -/
theorem encodeFrame_of_checks (m : Metadata) (p : List Byte) (hsrc : familyOf m.fromAddr ≠ none)
    (hlen : m.length.toNat = 6 + p.length) : encodeFrame m p = .ok (metaEncode m ++ p) := by
  rw [encodeFrame, if_neg hsrc, if_neg (not_not_intro hlen)]

/-- Settles O8: one case per check of R104, the unknown sources being those outside the address table; the header's bytes
are `MetaEncode` written out (R95). -/
theorem encodeFrameOutcome : Obligations.EncodeFrameOutcome := by
  intro m p
  split_ifs with hsrc hlen
  · exact encodeFrame_of_unknownSource m p ((familyOf_eq_none_iff _).2 hsrc)
  · exact encodeFrame_of_lengthMismatch m p (mt (familyOf_eq_none_iff _).1 hsrc) hlen
  · exact encodeFrame_of_checks m p (mt (familyOf_eq_none_iff _).1 hsrc) (not_not.1 hlen)

end Sys2Proof.Machine
end

section
/-! PROOFS. The statements of 42_frame_dispatch.md: the outcomes of `DecodeFrame`. -/

namespace Sys2Proof.Machine

/-- Any seven bytes are the header they decode to (R94, R95). -/
theorem metaEncode_of_bytes (l t f r1 r0 q y : Byte) :
    metaEncode ⟨l, t, f, r1 ++ r0, q, y⟩ = [l, t, f, r1, r0, q, y] := by
  simp [metaEncode, ← be16_eq_append]

/-- R94: fewer than seven bytes are no header. -/
theorem metaDecode_of_short (b : List Byte) (hb : b.length < 7) :
    metaDecode b = .error ⟨.malformedHeader, 7, b.length⟩ := by
  unfold metaDecode
  split
  · simp only [List.length_cons] at hb
    omega
  · rfl

/-- R101: the error of the header is the error of the frame. -/
theorem decodeFrame_of_shortHeader (b : List Byte) (hb : b.length < 7) :
    decodeFrame b = .error ⟨.malformedHeader, 7, b.length⟩ := by
  rw [decodeFrame, metaDecode_of_short b hb]

/-- R102: the length byte is checked first, whatever the source and the bytes after the header. -/
theorem decodeFrame_of_lengthBelowSix (m : Metadata) (rest : List Byte) (hlen : m.length.toNat < 6) :
    decodeFrame (metaEncode m ++ rest) = .error ⟨.malformedHeader, 6, m.length.toNat⟩ := by
  simp only [decodeFrame, metaDecode_metaEncode, if_pos hlen]

/-- R102: the source is checked next, whether or not the payload is there. -/
theorem decodeFrame_of_unknownSource (m : Metadata) (rest : List Byte) (hlen : ¬ m.length.toNat < 6)
    (hsrc : familyOf m.fromAddr = none) :
    decodeFrame (metaEncode m ++ rest) = .error ⟨.unknownSource, 0, m.fromAddr.toNat⟩ := by
  simp only [decodeFrame, metaDecode_metaEncode, if_neg hlen, if_pos hsrc]

/-- The bytes after the length byte: six of the header and the rest. -/
theorem length_after_lengthByte (m : Metadata) (rest : List Byte) :
    (metaEncode m ++ rest).length - 1 = rest.length + 6 := by
  rw [List.length_append, metaEncode_length]
  omega

/-- R101: the length byte of a known source may not count more bytes than follow it. -/
theorem decodeFrame_of_truncated (m : Metadata) (rest : List Byte) (hlen : ¬ m.length.toNat < 6)
    (hsrc : familyOf m.fromAddr ≠ none) (htrunc : rest.length + 6 < m.length.toNat) :
    decodeFrame (metaEncode m ++ rest) = .error ⟨.truncatedPayload, m.length.toNat, rest.length + 6⟩ := by
  simp only [decodeFrame, metaDecode_metaEncode, length_after_lengthByte, if_neg hlen, if_neg hsrc, if_pos htrunc]

/-- R101, R103: past the three checks the frame is the header and the payload its length counts; what follows is not
consumed. -/
theorem decodeFrame_of_checks (m : Metadata) (rest : List Byte) (hlen : ¬ m.length.toNat < 6)
    (hsrc : familyOf m.fromAddr ≠ none) (htrunc : ¬ rest.length + 6 < m.length.toNat) :
    decodeFrame (metaEncode m ++ rest) = .ok (⟨m, rest.take (m.length.toNat - 6)⟩, m.length.toNat + 1) := by
  simp only [decodeFrame, metaDecode_metaEncode, length_after_lengthByte, drop_metaEncode, if_neg hlen, if_neg hsrc,
    if_neg htrunc]

/-- Settles O7: the short header apart, the first seven bytes are a header, and there is one case per check in the order of
R102; the unknown sources are those outside the address table. -/
theorem decodeFrameOutcome : Obligations.DecodeFrameOutcome := by
  refine ⟨decodeFrame_of_shortHeader, fun l t f r1 r0 q y rest => ?_⟩
  have hbytes : l :: t :: f :: r1 :: r0 :: q :: y :: rest = metaEncode ⟨l, t, f, r1 ++ r0, q, y⟩ ++ rest := by
    rw [metaEncode_of_bytes]
    rfl
  rw [hbytes]
  split_ifs with hlen hsrc htrunc
  · exact decodeFrame_of_lengthBelowSix _ rest hlen
  · exact decodeFrame_of_unknownSource _ rest hlen ((familyOf_eq_none_iff f).2 hsrc)
  · exact decodeFrame_of_truncated _ rest hlen (mt (familyOf_eq_none_iff f).1 hsrc) htrunc
  · exact decodeFrame_of_checks _ rest hlen (mt (familyOf_eq_none_iff f).1 hsrc) htrunc

end Sys2Proof.Machine
end


section
/-! PROOFS. The statements of 44_probe_family.md: the flag byte of a temperature report. -/

namespace Sys2Proof.Machine

/-- The sum of R122 fits a byte: the fields are bounded by their widths, so their weighted values do not overlap. -/
theorem packFlags_toNat (f : FlagFields) :
    (packFlags f).toNat =
      f.mode1.toNat * 32 + f.frost.toNat * 16 + f.mode2.toNat * 4 + f.override.toNat * 2 + f.sun.toNat := by
  have hmode1 := f.mode1.isLt
  have hfrost := f.frost.toNat_lt
  have hmode2 := f.mode2.isLt
  have hoverride := f.override.toNat_lt
  have hsun := f.sun.toNat_lt
  rw [packFlags, BitVec.toNat_ofNat]
  omega

/-- Appending on the right shifts by the width appended. -/
theorem toNat_append_eq_add {v w : Nat} (x : BitVec v) (y : BitVec w) :
    (x ++ y).toNat = x.toNat * 2 ^ w + y.toNat := by
  rw [BitVec.toNat_append, ← Nat.shiftLeft_add_eq_or_of_lt y.isLt, Nat.shiftLeft_eq]

/-- The weights of R122 are the places of the fields side by side: the two have the same value. -/
theorem packFlags_eq_append (f : FlagFields) :
    packFlags f =
      f.mode1 ++ BitVec.ofBool f.frost ++ f.mode2 ++ BitVec.ofBool f.override ++ BitVec.ofBool f.sun := by
  apply BitVec.eq_of_toNat_eq
  simp only [packFlags_toNat, toNat_append_eq_add, BitVec.toNat_ofBool]
  omega

/-- Settles O10: the fields side by side by the value of the sum, `UnpackFlags` field by field as R121 defines it, and the two
laws of R122; the example is the sum at `frost` alone. -/
theorem flagByteFields : Obligations.FlagByteFields :=
  ⟨packFlags_eq_append, fun _ => rfl, packFlags_toNat, unpack_pack, pack_unpack, rfl⟩

end Sys2Proof.Machine
end

section
/-! PROOFS. The statements of 47_association_fsm.md: the confirm loop's reaction to a received frame. -/

namespace Sys2Proof.Machine

/-! ### The frame rows -/

/-- R71, R74: every frame row hands the codec's reaction the frame of its own source, so what holds of that reaction for
every source holds on all nine rows. -/
theorem onFrameRows_of_frameDecoded (s : State) {a : SatAddr} {h : FrameHead} {p : List Byte}
    {P : Instr → Frame → Prop}
    (hP : ∀ src i, exec i s = .next (s.frameDecoded (frameOf src h p)) → P i (frameOf src h p)) :
    OnFrameRows a h p P :=
  ⟨hP _ _ rfl, hP _ _ rfl, hP _ _ rfl, hP _ _ rfl, hP _ _ rfl, hP _ _ rfl, hP _ _ rfl, hP _ _ rfl, hP _ _ rfl⟩

/-- R65: the length byte of a row's frame counts the six header bytes after it and the payload. -/
theorem frameOf_length_toNat (src : Byte) (h : FrameHead) {p : List Byte} (hp : p.length ≤ 249) :
    (frameOf src h p).head.length.toNat = 6 + (frameOf src h p).payload.length :=
  lengthByte_toNat p hp

/-! ### The confirm loop -/

/-- R99, R116: 0x80 is the one address of the boiler family. -/
theorem isBoiler_iff (f : Frame) : isBoiler f = true ↔ f.head.fromAddr = 0x80#8 := by
  rw [isBoiler, decide_eq_true_iff]
  rcases familyOf_cases f.head.fromAddr with ⟨ha | ha | ha, hf⟩ | ⟨ha, hf⟩ | ⟨ha, hf⟩ | ⟨⟨-, -, ha⟩, hf⟩ <;>
    rw [hf] <;> simp [ha]

/-- Settles O35: each row ends in the codec's reaction to its frame, and there the confirming sequencer asks only whether
the frame is a boiler's. -/
theorem confirmingEndsOnAnyBoilerFrame : Obligations.ConfirmingEndsOnAnyBoilerFrame := by
  intro s a h p hdecoding hconfirming hp
  refine onFrameRows_of_frameDecoded s fun src i hexec => ?_
  have hlen := frameOf_length_toNat src h hp
  have hsix : 6 ≤ (frameOf src h p).head.length.toNat := by omega
  have hpayload : (frameOf src h p).payload.length = (frameOf src h p).head.length.toNat - 6 := by omega
  refine ⟨fun hsrc => ?_, fun hsrc => ?_⟩ <;> rw [hexec]
  · exact s.frameDecoded_paired _ hdecoding hconfirming ((isBoiler_iff _).2 hsrc) hsix hpayload
  · have hother : isBoiler (frameOf src h p) = false := Bool.eq_false_iff.2 (mt (isBoiler_iff _).1 hsrc)
    exact s.frameDecoded_dropped _ hdecoding (.inr ⟨hconfirming, hother⟩) hsix hpayload

end Sys2Proof.Machine
end

section
/-! PROOFS. The statements of 48_host_commands.md: the codec commands, `NOP`, `ASSOC_RESET` and the illegal codes. -/

namespace Sys2Proof.Machine

/-! ### What the codec answers -/

/-- R88: both checks of `HexDecode` raise the same cause. -/
theorem hexDecode_error_cause (t : List Byte) (r : Raised) (h : hexDecode t = .error r) : r.cause = .malformedHex := by
  unfold hexDecode at h
  split at h
  · cases h; rfl
  · split at h
    · cases h; rfl
    · cases h

/-- R91: the bytes of a text that fits `TXT` fit `BUF`. -/
theorem hexDecode_length_le (t b : List Byte) (ht : t.length ≤ 512) (h : hexDecode t = .ok b) : b.length ≤ 256 := by
  have hlen := hexDecode_length t b h
  omega

/-- R94: a header that does not decode is malformed. -/
theorem metaDecode_error_cause (b : List Byte) (r : Raised) (h : metaDecode b = .error r) :
    r.cause = .malformedHeader := by
  unfold metaDecode at h
  split at h <;> cases h
  rfl

/-- R101: a frame that does not decode is reported with a cause of failure. -/
theorem decodeFrame_error_cause (b : List Byte) (r : Raised) (h : decodeFrame b = .error r) : r.cause ≠ .ok := by
  unfold decodeFrame at h
  split at h
  case h_1 hmeta =>
    cases h
    simp [metaDecode_error_cause b r hmeta]
  case h_2 =>
    split_ifs at h <;> cases h <;> simp

/-- R95, R104: an encoded frame is one byte longer than its length byte says. -/
theorem encodeFrame_length (m : Metadata) (p b : List Byte) (h : encodeFrame m p = .ok b) :
    b.length = m.length.toNat + 1 := by
  obtain ⟨-, hlen, rfl⟩ := encodeFrame_ok m p b h
  rw [List.length_append, metaEncode_length]
  omega

/-- R106: a decoded frame encodes to the bytes that were consumed. -/
theorem encodeFrame_of_decodeFrame (b : List Byte) (f : Frame) (n : Nat) (h : decodeFrame b = .ok (f, n)) :
    encodeFrame f.head f.payload = .ok (b.take n) := by
  obtain ⟨hsix, hsrc, -, hpayload, hplen, hn, hb⟩ := decodeFrame_ok b f n h
  have htake : b.take n = metaEncode f.head ++ f.payload := by
    rw [hb, List.take_append, metaEncode_length, List.take_of_length_le (by rw [metaEncode_length]; omega), hpayload,
      show n - 7 = f.head.length.toNat - 6 by omega]
  rw [encodeFrame_of_checks f.head f.payload hsrc (by omega), htake]

/-! ### A codec command that fills a buffer -/

/-- `TXT <- t` for a text that fits. -/
theorem State.setTxt_spec (s : State) (t : List Byte) (h : t.length ≤ 512) :
    s.setTxt t = { s with mem := Memory.write s.mem txtBase t, txtLen := BitVec.ofNat 10 t.length } := by
  rw [State.setTxt, take_of_le h]

/-- The end of a command leaves the buffers as they are. -/
@[simp] theorem State.succeed_bufBytes (s : State) : s.succeed.bufBytes = s.bufBytes := by
  apply State.bufBytes_congr <;> rfl

@[simp] theorem State.succeed_txtBytes (s : State) : s.succeed.txtBytes = s.txtBytes := by
  apply State.txtBytes_congr <;> rfl

/-- The outcome writes the bytes to `BUF` and `BUF_LEN`, ends the command of the code with `RESULT = 0`, and changes
nothing else (R174, R177). -/
def FillsBuf (s : State) (o : Out) (code : Byte) (b : List Byte) : Prop :=
  ∃ t, o = .next t ∧
    t = { s.withEnd code 0#8 0#16 0#16 0#3 0#9 (statusFatal s.status) with
          mem := t.mem, bufLen := BitVec.ofNat 9 b.length } ∧
    t.bufBytes = b ∧ SameOutside s t bufBase b.length

/-- A command that starts, writes bytes that fit to `BUF` and succeeds in one step. -/
theorem State.startCommand_setBuf_succeed (s : State) (code : Byte) (b : List Byte) (h : b.length ≤ 256) :
    FillsBuf s (.next ((s.startCommand code).setBuf b).succeed) code b := by
  refine ⟨_, rfl, ?_, ?_, ?_⟩
  · rw [State.setBuf_spec _ b h, State.succeed_eq]
    simp [State.withEnd, State.startCommand]
  · rw [State.succeed_bufBytes, State.setBuf_bufBytes _ b h]
  · apply SameOutside.write
    rw [State.setBuf_spec _ b h]
    rfl

/-- A filled `BUF` is that of a command that ended with `RESULT = 0`. -/
theorem FillsBuf.exists_next {s : State} {o : Out} {code : Byte} {b : List Byte} (h : FillsBuf s o code b) :
    ∃ u, o = .next u ∧ u.result = 0#8 ∧ u.bufBytes = b := by
  obtain ⟨u, ho, hu, hbuf, -⟩ := h
  exact ⟨u, ho, congrArg State.result hu, hbuf⟩

/-! ### HEXDEC and HEXENC -/

/-- R174: a text that decodes goes to `BUF`. -/
theorem exec_hexdec_of_ok (s : State) (b : List Byte) (h : hexDecode s.txtBytes = .ok b) (hb : b.length ≤ 256) :
    FillsBuf s (exec .hexdec s) 0x01#8 b := by
  simp only [exec, execHexdec, h]
  exact s.startCommand_setBuf_succeed 0x01#8 b hb

/-- R174: a text that does not decode ends the command with its cause and counts. -/
theorem exec_hexdec_of_error (s : State) (r : Raised) (h : hexDecode s.txtBytes = .error r) :
    exec .hexdec s = .next ((s.startCommand 0x01#8).endWith r) := by
  simp only [exec, execHexdec, h]

/-- Settles O16: the decoded bytes are half the text, so `BUF` holds them; the failure is an end with `MalformedHex`. -/
theorem hexdecResult : Obligations.HexdecResult := by
  intro s htxt
  refine ⟨fun b h => ?_, fun r h => ?_⟩
  · have hb : b.length ≤ 256 := hexDecode_length_le _ b (by rwa [State.txtBytes, State.bytesAt_length]) h
    exact ⟨hb, exec_hexdec_of_ok s b h hb⟩
  · have hcause := hexDecode_error_cause _ r h
    rw [exec_hexdec_of_error s r h, State.startCommand_endWith]
    simp [hcause, Cause.code]

/-- Settles O17: the text of at most 256 bytes fits `TXT`, which reads back as what was written. -/
theorem hexencResult : Obligations.HexencResult := by
  intro s hbuf
  have hlen : (hexEncode s.cfg.hexUpper s.bufBytes).length = 2 * s.bufLen.toNat := by
    rw [hexEncode_length, State.bufBytes, State.bytesAt_length]
  have hfits : (hexEncode s.cfg.hexUpper s.bufBytes).length ≤ 512 := by omega
  rw [← hlen]
  refine ⟨_, rfl, ?_, ?_, ?_⟩
  · rw [State.setTxt_spec _ _ hfits, State.succeed_eq]
    simp [State.withEnd, State.startCommand]
  · rw [State.succeed_txtBytes, State.setTxt_txtBytes _ _ hfits]
  · apply SameOutside.write
    rw [State.setTxt_spec _ _ hfits]
    rfl

/-! ### DECODE -/

/-- Loading a frame ends the command, so of the command's start only its code is left. -/
theorem LoadsFrame.of_startCommand {s : State} {code : Byte} {o : Out} {f : Frame}
    (h : LoadsFrame (s.startCommand code) o f) : LoadsFrame { s with cmd := code } o f := by
  obtain ⟨t, ho, ht, hpayload, hmem⟩ := h
  rw [State.withEnd_startCommand, State.startCommand_status, statusFatal_start] at ht
  exact ⟨t, ho, ht, hpayload, hmem⟩

/-- R176: a command runs the codec for the host, never for the sequencer. -/
theorem exec_decode_of_ok (s : State) (f : Frame) (n : Nat) (h : decodeFrame s.bufBytes = .ok (f, n)) :
    LoadsFrame { s with cmd := 0x03#8 } (exec .decode s) f := by
  obtain ⟨hsix, -, -, -, hplen, -, -⟩ := decodeFrame_ok _ f n h
  have hexec : exec .decode s = .next ((s.startCommand 0x03#8).frameDecoded f) := by
    simp only [exec, execDecode, State.runCodec, h]
  rw [hexec]
  exact ((s.startCommand 0x03#8).frameDecoded_host f (by simp) hsix hplen).of_startCommand

/-- R176: a frame that does not decode ends the command with its cause and counts. -/
theorem exec_decode_of_error (s : State) (r : Raised) (h : decodeFrame s.bufBytes = .error r) :
    exec .decode s = .next ((s.startCommand 0x03#8).endWith r) := by
  simp [exec, execDecode, State.runCodec, h, State.frameRejected]

/-- Settles O18: the two outcomes of `DecodeFrame` on the bytes of `BUF`. -/
theorem decodeResult : Obligations.DecodeResult := by
  intro s
  refine ⟨fun f n h => ?_, fun r h => ?_⟩
  · obtain ⟨-, -, -, -, -, hn, -⟩ := decodeFrame_ok _ f n h
    exact ⟨hn, exec_decode_of_ok s f n h⟩
  · rw [exec_decode_of_error s r h, State.startCommand_endWith]

/-- R176: a `DECODE` that ended with `RESULT = 0` has decoded a frame, which `FR` holds; `CONSUMED` counts its bytes. -/
theorem exec_decode_result_zero (s t : State) (h : exec .decode s = .next t) (hres : t.result = 0#8) :
    ∃ f n, decodeFrame s.bufBytes = .ok (f, n) ∧ t.fr = f.head ∧ t.payloadBytes = f.payload ∧ t.consumed.toNat = n := by
  cases hdec : decodeFrame s.bufBytes with
  | error r =>
    rw [exec_decode_of_error s r hdec] at h
    cases h
    have hcause := causeCode_ne_zero r.cause
    have hcode : r.cause.code = 0#8 := hres
    simp [hcode, decodeFrame_error_cause _ r hdec] at hcause
  | ok p =>
    obtain ⟨f, n⟩ := p
    obtain ⟨t', ho, ht, hpayload, -⟩ := exec_decode_of_ok s f n hdec
    obtain ⟨-, -, -, -, -, hn, -⟩ := decodeFrame_ok _ f n hdec
    obtain rfl : t = t' := by rw [h] at ho; cases ho; rfl
    have hconsumed : t.consumed = BitVec.ofNat 9 (f.head.length.toNat + 1) := congrArg State.consumed ht
    have hlt : f.head.length.toNat < 256 := f.head.length.isLt
    refine ⟨f, n, rfl, congrArg State.fr ht, hpayload, ?_⟩
    rw [hconsumed, BitVec.toNat_ofNat]
    omega

/-! ### ENCODE -/

/-- R177: a frame that encodes goes to `BUF`, which its at most 256 bytes fit. -/
theorem exec_encode_of_ok (s : State) (b : List Byte) (h : encodeFrame s.fr s.payloadBytes = .ok b) :
    FillsBuf s (exec .encode s) 0x04#8 b := by
  have hlen := encodeFrame_length _ _ b h
  have hlt : s.fr.length.toNat < 256 := s.fr.length.isLt
  simp only [exec, execEncode, h]
  exact s.startCommand_setBuf_succeed 0x04#8 b (by omega)

/-- R177: a frame that does not encode ends the command with its cause and counts. -/
theorem exec_encode_of_error (s : State) (r : Raised) (h : encodeFrame s.fr s.payloadBytes = .error r) :
    exec .encode s = .next ((s.startCommand 0x04#8).endWith r) := by
  simp only [exec, execEncode, h]

/-- Settles O19: the two outcomes of `EncodeFrame` on `FR`; after a successful `DECODE` it holds the frame just decoded,
and the codec's round trip gives its bytes back. -/
theorem encodeResult : Obligations.EncodeResult := by
  refine ⟨fun s => ⟨fun b h => ?_, fun r h => ?_⟩, fun s t h hres => ?_⟩
  · exact ⟨encodeFrame_length _ _ b h, exec_encode_of_ok s b h⟩
  · rw [exec_encode_of_error s r h, State.startCommand_endWith]
  · obtain ⟨f, n, hdec, hfr, hpayload, hn⟩ := exec_decode_result_zero s t h hres
    have henc : encodeFrame t.fr t.payloadBytes = .ok (s.bufBytes.take t.consumed.toNat) := by
      rw [hfr, hpayload, hn]
      exact encodeFrame_of_decodeFrame _ f n hdec
    exact (exec_encode_of_ok t _ henc).exists_next

/-! ### Commands without the codec -/

/-- A command that starts and succeeds in one step. -/
theorem State.startCommand_succeed (s : State) (code : Byte) :
    (s.startCommand code).succeed = s.withEnd code 0#8 0#16 0#16 0#3 0#9 (statusFatal s.status) := by
  rw [State.succeed_eq, State.withEnd_startCommand, State.startCommand_status, statusFatal_start,
    State.startCommand_cmd]

/-- The way back to `Idle` and the end of a command write different registers (R179). -/
theorem State.returnToIdle_succeed (s : State) : s.returnToIdle.succeed = s.succeed.returnToIdle := rfl

/-- Settles O15: `NOP` starts and succeeds. -/
theorem nopClearsTheResults : Obligations.NopClearsTheResults :=
  fun s => congrArg Host.Outcome.next (s.startCommand_succeed 0x00#8)

/-- Settles O21: `ASSOC_RESET` is a command that starts and succeeds, and the sequencer's way back to `Idle`. -/
theorem assocResetReturnsToIdle : Obligations.AssocResetReturnsToIdle := by
  intro s
  rw [exec, execAssocReset, State.returnToIdle_succeed, State.startCommand_succeed]
  rfl

/-- Settles O24: the code is above those of the eleven commands, and its meaning is an end with `IllegalCommand`. -/
theorem illegalCommandHasNoOtherEffect : Obligations.IllegalCommandHasNoOtherEffect := by
  intro s c hc
  refine ⟨decodeHostCmd_illegal c hc, ?_⟩
  rw [exec, execHostIllegal, State.startCommand_endWith]
  simp [Cause.code]

end Sys2Proof.Machine
end

section
/-! PROOFS. The statements of 60_exceptions.md: the bound of the confirm loop, and the refusals raised by host commands. -/

namespace Sys2Proof.Machine

/-! ### RetryExhausted -/

/-- R158: the act of the confirm loop's first phase is the start of an iteration. -/
theorem State.sequencerAct_confirming (s : State) (hconfirming : s.assoc = .confirming) (hphase : s.phase = 0#2) :
    s.sequencerAct = some s.startIteration := by
  simp only [State.sequencerAct, hconfirming, if_pos hphase]

/-- R196: at the bound or above it the handshake fails with the bound and the counter. -/
theorem State.startIteration_of_bound (s : State) (h : s.cfg.maxRetry.toNat ≤ s.retryCnt.toNat) :
    s.startIteration = s.withFailed 7#8 s.cfg.maxRetry s.retryCnt (statusFatal s.status) := by
  rw [State.startIteration, if_pos h, State.failHandshake_eq]
  simp [Cause.code]

/-- R158: below the bound the iteration is counted and its report is due. -/
theorem State.startIteration_of_lt (s : State) (h : s.retryCnt.toNat < s.cfg.maxRetry.toNat) :
    s.startIteration = { s with retryCnt := s.retryCnt + 1#16, phase := 1#2 } := by
  rw [State.startIteration, if_neg (Nat.not_le.2 h)]

/-- A counter below another 16-bit value has room for one more. -/
theorem toNat_add_one_of_lt {x y : Half} (h : x.toNat < y.toNat) : (x + 1#16).toNat = x.toNat + 1 := by
  bv_omega

/-- A turn of the confirm loop in its first phase is the start of an iteration, with or without a script. -/
theorem OnTurn.of_startIteration (s : State) (P : State → Out → Prop) (hsequencing : s.activity = .sequencing)
    (hconfirming : s.assoc = .confirming) (hphase : s.phase = 0#2)
    (h : ∀ es, P (s.withEvents es) (.next (s.withEvents es).startIteration)) : OnTurn s P :=
  OnTurn.of_act s P hsequencing fun es => ⟨_, (s.withEvents es).sequencerAct_confirming hconfirming hphase, h es⟩

/-- Settles O49: the start of an iteration, at the bound and below it; the counter cannot wrap, as it is below a bound of its
own width. -/
theorem retryBound : Obligations.RetryBound := by
  intro s hsequencing hconfirming hphase
  refine ⟨fun hbound => ?_, fun hbelow => ?_⟩
  · refine OnTurn.of_startIteration s _ hsequencing hconfirming hphase fun es => ?_
    rw [(s.withEvents es).startIteration_of_bound hbound, State.withFailed, State.withEvents_assoc, hconfirming]
    rfl
  · refine OnTurn.of_startIteration s _ hsequencing hconfirming hphase fun es => ?_
    rw [(s.withEvents es).startIteration_of_lt hbelow]
    exact ⟨_, rfl, rfl, toNat_add_one_of_lt hbelow⟩

/-! ### NotIdle and ConfigInvalid -/

/-- R37: the check of `ASSOC_START` is the condition on the templates. -/
theorem cfgWF_iff (cfg : Cfg) : cfgWF cfg = true ↔ TemplatesReady cfg := by
  simp only [cfgWF, TemplatesReady, Bool.and_eq_true, decide_eq_true_eq, and_assoc]

/-- R198: outside `Idle` the command ends with the state's code, whatever the configuration. -/
theorem exec_assocStart_of_notIdle (s : State) (h : s.assoc ≠ .idle) :
    exec .assocStart s = .next ((s.startCommand 0x05#8).endWith ⟨.notIdle, 0, (assocCode s.assoc).toNat⟩) := by
  rw [exec, execAssocStart, if_pos h, codeAssocStart]

/-- R199: in `Idle` the configuration is checked next. -/
theorem exec_assocStart_of_notReady (s : State) (hidle : s.assoc = .idle) (hcfg : ¬ TemplatesReady s.cfg) :
    exec .assocStart s = .next ((s.startCommand 0x05#8).endWith ⟨.configInvalid, 0, 0⟩) := by
  have hwf : cfgWF s.cfg = false := Bool.eq_false_iff.2 (mt (cfgWF_iff s.cfg).1 hcfg)
  rw [exec, execAssocStart, if_neg (not_not_intro hidle), if_pos hwf, codeAssocStart]

/-- Settles O20: each check ends the command just started with its cause, and an end forgets the start. -/
theorem assocStartRefused : Obligations.AssocStartRefused := by
  intro s
  refine ⟨fun hidle => ?_, fun hidle hcfg => ?_⟩
  · rw [exec_assocStart_of_notIdle s hidle, State.startCommand_endWith]
    simp [Cause.code]
  · rw [exec_assocStart_of_notReady s hidle hcfg, State.startCommand_endWith]
    simp [Cause.code]

/-! ### LengthMismatch -/

/-- A command that starts and ends with `LengthMismatch` in one step. -/
theorem State.startCommand_lengthMismatch (s : State) (code : Byte) (x y : Nat) :
    (s.startCommand code).endWith ⟨.lengthMismatch, x, y⟩ =
      s.withEnd code 5#8 (BitVec.ofNat 16 x) (BitVec.ofNat 16 y) 0#3 0#9 (statusFatal s.status) := by
  rw [State.startCommand_endWith]
  simp [Cause.code]

/-- R181: fewer than four bytes are no network identity. -/
theorem netIdOf_of_short (b : List Byte) (h : b.length < 4) : netIdOf b = none := by
  unfold netIdOf
  split
  · simp only [List.length_cons] at h
    omega
  · rfl

/-- R181, R194: `BUF` must hold the four bytes of an identity. -/
theorem exec_tSetNid_of_short (s : State) (h : s.bufLen.toNat < 4) :
    exec .tSetNid s = .next ((s.startCommand 0x08#8).endWith ⟨.lengthMismatch, 4, s.bufLen.toNat⟩) := by
  have hnid : netIdOf s.bufBytes = none := netIdOf_of_short _ (by rwa [State.bufBytes, State.bytesAt_length])
  simp only [exec, execTSetNid, hnid]

/-- R182, R194: `BUF` must hold something to send. -/
theorem exec_tSend_of_empty (s : State) (h : s.bufLen = 0#9) :
    exec .tSend s = .next ((s.startCommand 0x09#8).endWith ⟨.lengthMismatch, 1, 0⟩) := by
  rw [exec, execTSend, if_pos h]

/-- Settles O23: the length check of `EncodeFrame` on `FR`, whose payload counts `FR.PLEN` bytes, and the two checks of
`BUF_LEN`. -/
theorem lengthMismatchRaised : Obligations.LengthMismatchRaised := by
  intro s
  refine ⟨fun hsrc hlen => ?_, fun hshort => ?_, fun hempty => ?_⟩
  · have hplen : s.payloadBytes.length = s.plen.toNat := State.bytesAt_length s payloadBase s.plen.toNat
    have henc := encodeFrame_of_lengthMismatch s.fr s.payloadBytes hsrc (by rwa [hplen])
    rw [exec_encode_of_error s _ henc, State.startCommand_lengthMismatch, hplen, BitVec.ofNat_add, BitVec.ofNat_toNat,
      BitVec.ofNat_toNat]
  · rw [exec_tSetNid_of_short s hshort, State.startCommand_lengthMismatch, BitVec.ofNat_toNat]
  · rw [exec_tSend_of_empty s hempty, State.startCommand_lengthMismatch]

end Sys2Proof.Machine
end

section
/-! PROOFS. The statements of 30_encoding.md: the decoder against the encoder, against well-formedness, and against the
codec. -/

namespace Sys2Proof.Machine

/-! ### Decoding what the encoder writes -/

/-- Settles O1: the family `RoundTrip` holds of every row of the opcode map. -/
theorem decodeOfEncodeIsIdentity : Obligations.DecodeOfEncodeIsIdentity := by
  intro cfg upper i
  cases i with
  | boilerAssocBroadcast h p => exact Laws.RoundTrip.boilerAssocBroadcast h p cfg upper
  | boilerSetTempResponse h p => exact Laws.RoundTrip.boilerSetTempResponse h p cfg upper
  | boilerUnknown h p => exact Laws.RoundTrip.boilerUnknown h p cfg upper
  | probeInit h p => exact Laws.RoundTrip.probeInit h p cfg upper
  | probeAssocAnnounce h p => exact Laws.RoundTrip.probeAssocAnnounce h p cfg upper
  | probeTempReport h p => exact Laws.RoundTrip.probeTempReport h p cfg upper
  | probeUnknown h p => exact Laws.RoundTrip.probeUnknown h p cfg upper
  | satelliteTempReport a h p => exact Laws.RoundTrip.satelliteTempReport a h p cfg upper
  | satelliteUnknown a h p => exact Laws.RoundTrip.satelliteUnknown a h p cfg upper
  | frameIllegalSource m tail => exact Laws.RoundTrip.frameIllegalSource m tail cfg upper
  | frameIllegalLength b => exact Laws.RoundTrip.frameIllegalLength b cfg upper
  | frameHeader m part => exact Laws.RoundTrip.frameHeader m part cfg upper
  | flags f => exact Laws.RoundTrip.flags f cfg upper
  | serialNid n => exact Laws.RoundTrip.serialNid n cfg upper
  | serialLst => exact Laws.RoundTrip.serialLst cfg upper
  | serialCmd b => exact Laws.RoundTrip.serialCmd b cfg upper
  | serialSlp => exact Laws.RoundTrip.serialSlp cfg upper
  | serialIncoming text => exact Laws.RoundTrip.serialIncoming text cfg upper
  | brokerListen => exact Laws.RoundTrip.brokerListen cfg upper
  | brokerSleep => exact Laws.RoundTrip.brokerSleep cfg upper
  | brokerSetNetworkId n => exact Laws.RoundTrip.brokerSetNetworkId n cfg upper
  | brokerSend b => exact Laws.RoundTrip.brokerSend b cfg upper
  | brokerIncoming text => exact Laws.RoundTrip.brokerIncoming text cfg upper
  | nop => exact Laws.RoundTrip.nop cfg upper
  | hexdec => exact Laws.RoundTrip.hexdec cfg upper
  | hexenc => exact Laws.RoundTrip.hexenc cfg upper
  | decode => exact Laws.RoundTrip.decode cfg upper
  | encode => exact Laws.RoundTrip.encode cfg upper
  | assocStart => exact Laws.RoundTrip.assocStart cfg upper
  | assocReset => exact Laws.RoundTrip.assocReset cfg upper
  | tSleep => exact Laws.RoundTrip.tSleep cfg upper
  | tSetNid => exact Laws.RoundTrip.tSetNid cfg upper
  | tSend => exact Laws.RoundTrip.tSend cfg upper
  | tReceive => exact Laws.RoundTrip.tReceive cfg upper
  | hostIllegal c => exact Laws.RoundTrip.hostIllegal c cfg upper

/-! ### Frames: the opcode map and the codec -/

/-- R71: a byte sequence is too short for a header, or it is a header followed by the rest. -/
theorem short_or_metaEncode (b : List Byte) : b.length < 7 ∨ ∃ m rest, b = metaEncode m ++ rest := by
  cases h : metaDecode b with
  | ok m => exact .inr ⟨m, _, (metaDecode_ok b m h).2⟩
  | error r =>
    left
    unfold metaDecode at h
    split at h
    · cases h
    · rename_i hb
      match b, hb with
      | [], _ | [_], _ | [_, _], _ | [_, _, _], _ | [_, _, _, _], _ | [_, _, _, _, _], _ | [_, _, _, _, _, _], _ => simp
      | l :: t :: f :: r1 :: r0 :: q :: y :: rest, hb => exact absurd rfl (hb l t f r1 r0 q y rest)

/-- R71, R80 a: no header, no frame. -/
theorem decodeFrameInstr_of_shortHeader (cfg : Cfg) (b : List Byte) (hb : b.length < 7) :
    decodeFrameInstr cfg b = .frameIllegalLength b := by
  rw [decodeFrameInstr, metaDecode_of_short b hb]

/-- R80 b: the length byte is judged before the source. -/
theorem decodeFrameInstr_of_lengthBelowSix (cfg : Cfg) (m : Metadata) (rest : List Byte) (hlen : m.length.toNat < 6) :
    decodeFrameInstr cfg (metaEncode m ++ rest) = .frameIllegalLength (metaEncode m ++ rest) := by
  simp only [decodeFrameInstr, metaDecode_metaEncode, if_pos hlen]

/-- R79: the source is judged before the payload. -/
theorem decodeFrameInstr_of_unknownSource (cfg : Cfg) (m : Metadata) (rest : List Byte) (hlen : ¬ m.length.toNat < 6)
    (hsrc : familyOf m.fromAddr = none) : decodeFrameInstr cfg (metaEncode m ++ rest) = .frameIllegalSource m rest := by
  simp only [decodeFrameInstr, metaDecode_metaEncode, if_neg hlen, hsrc, drop_metaEncode]

/-- R80 c: a known source, and fewer payload bytes than the length byte counts. -/
theorem decodeFrameInstr_of_truncated (cfg : Cfg) (m : Metadata) (rest : List Byte) (hlen : ¬ m.length.toNat < 6)
    (hsrc : familyOf m.fromAddr ≠ none) (htrunc : rest.length + 6 < m.length.toNat) :
    decodeFrameInstr cfg (metaEncode m ++ rest) = .frameHeader m rest := by
  obtain ⟨fam, hfam⟩ := Option.ne_none_iff_exists'.mp hsrc
  simp only [decodeFrameInstr, metaDecode_metaEncode, if_neg hlen, hfam, length_after_lengthByte, if_pos htrunc,
    drop_metaEncode]

/-- R71: past the checks the family's row is chosen. -/
theorem decodeFrameInstr_of_checks (cfg : Cfg) (fam : Family) (m : Metadata) (rest : List Byte)
    (hlen : ¬ m.length.toNat < 6) (hsrc : familyOf m.fromAddr = some fam) (htrunc : ¬ rest.length + 6 < m.length.toNat) :
    decodeFrameInstr cfg (metaEncode m ++ rest) = decodeVariant cfg fam m (rest.take (m.length.toNat - 6)) := by
  simp only [decodeFrameInstr, metaDecode_metaEncode, if_neg hlen, hsrc, length_after_lengthByte, if_neg htrunc,
    drop_metaEncode]

/-- R65, R74: a frame is its row's frame: the payload gives the length byte, the row the source. -/
theorem frameOf_freeHead (m : Metadata) (p : List Byte) (hlen : m.length.toNat = 6 + p.length) :
    frameOf m.fromAddr (freeHead m) p = ⟨m, p⟩ := by
  have hbyte : lengthByte p = m.length := by
    rw [lengthByte, ← hlen, BitVec.ofNat_toNat, BitVec.setWidth_eq]
  rw [frameOf, hbyte, freeHead]

/-- R125: an address of the satellite family is the address of its row. -/
theorem satByte_satAddrOf (a : Byte) (h : familyOf a = some .satellite) : satByte (satAddrOf a) = a := by
  rcases familyOf_cases a with ⟨rfl | rfl | rfl, -⟩ | ⟨-, hf⟩ | ⟨-, hf⟩ | ⟨-, hf⟩
  · rfl
  · rfl
  · rfl
  all_goals rw [hf] at h; cases h

theorem familyOf_eq_probe (a : Byte) (h : familyOf a = some .probe) : a = 0x20#8 := by
  rcases familyOf_cases a with ⟨-, hf⟩ | ⟨ha, -⟩ | ⟨-, hf⟩ | ⟨-, hf⟩
  case inr.inl => exact ha
  all_goals rw [hf] at h; cases h

/-- R71, R74: whichever row of its family a frame falls in, executing the row is the codec's reaction to the frame. -/
theorem exec_decodeVariant (s : State) (cfg : Cfg) (fam : Family) (m : Metadata) (p : List Byte)
    (hsrc : familyOf m.fromAddr = some fam) (hlen : m.length.toNat = 6 + p.length) :
    exec (decodeVariant cfg fam m p) s = .next (s.frameDecoded ⟨m, p⟩) := by
  have hframe := frameOf_freeHead m p hlen
  cases fam with
  | satellite =>
    rw [← satByte_satAddrOf _ hsrc] at hframe
    rw [← hframe, decodeVariant]
    split <;> rfl
  | probe =>
    rw [familyOf_eq_probe _ hsrc] at hframe
    rw [← hframe, decodeVariant]
    split <;> rfl
  | boiler =>
    rw [familyOf_eq_boiler _ hsrc] at hframe
    rw [← hframe, decodeVariant]
    split <;> rfl

/-- R191: the row of bad lengths tells a short header from a small length byte as the codec does. -/
theorem exec_frameIllegalLength_of_short (s : State) (b : List Byte) (hb : b.length < 7) :
    exec (.frameIllegalLength b) s = .next (s.frameRejected ⟨.malformedHeader, 7, b.length⟩) := by
  rw [exec, execFrameIllegalLength, if_pos hb]

theorem exec_frameIllegalLength_of_header (s : State) (l : Byte) (rest : List Byte) (hrest : 6 ≤ rest.length) :
    exec (.frameIllegalLength (l :: rest)) s = .next (s.frameRejected ⟨.malformedHeader, 6, l.toNat⟩) := by
  rw [exec, execFrameIllegalLength, if_neg (by rw [List.length_cons]; omega), List.headD_cons]

/-- Settles O31: the opcode map and `DecodeFrame` make the same checks in the same order; past them the row's frame is the
decoded one. -/
theorem frameInstructionsRunTheCodec : Obligations.FrameInstructionsRunTheCodec := by
  intro s b
  rcases short_or_metaEncode b with hb | ⟨m, rest, rfl⟩
  · rw [decodeFrameInstr_of_shortHeader _ b hb, exec_frameIllegalLength_of_short s b hb, State.runCodec,
      decodeFrame_of_shortHeader b hb]
  by_cases hlen : m.length.toNat < 6
  · rw [decodeFrameInstr_of_lengthBelowSix _ m rest hlen, State.runCodec, decodeFrame_of_lengthBelowSix m rest hlen]
    exact exec_frameIllegalLength_of_header s m.length _ (by simp)
  cases hsrc : familyOf m.fromAddr with
  | none =>
    rw [decodeFrameInstr_of_unknownSource _ m rest hlen hsrc, State.runCodec,
      decodeFrame_of_unknownSource m rest hlen hsrc]
    rfl
  | some fam =>
    have hknown : familyOf m.fromAddr ≠ none := by rw [hsrc]; exact Option.some_ne_none fam
    by_cases htrunc : rest.length + 6 < m.length.toNat
    · rw [decodeFrameInstr_of_truncated _ m rest hlen hknown htrunc, State.runCodec,
        decodeFrame_of_truncated m rest hlen hknown htrunc, exec, execFrameHeader, Nat.add_comm 6]
    · have hpayload : m.length.toNat = 6 + (rest.take (m.length.toNat - 6)).length := by
        rw [List.length_take]; omega
      rw [decodeFrameInstr_of_checks _ fam m rest hlen hsrc htrunc, State.runCodec,
        decodeFrame_of_checks m rest hlen hknown htrunc]
      exact exec_decodeVariant s _ fam m _ hsrc hpayload

/-! ### What the decoder reads is well-formed -/

/-- R65, R71: the row whose variant the length byte selects. -/
theorem payloadSelects_of_length {cfg : Cfg} {fam : Family} {v : Variant} {m : Metadata} {p : List Byte}
    (hlen : m.length.toNat = 6 + p.length) (hv : variantOf fam m.length cfg = v) : payloadSelects cfg fam v p = true := by
  have hbyte : lengthByte p = m.length := congrArg (fun f => f.head.length) (frameOf_freeHead m p hlen)
  have hfits : p.length ≤ 249 := by have := m.length.isLt; omega
  simp [payloadSelects, hfits, hbyte, hv]

/-- R100: the variants of each family. -/
theorem variantOf_boiler_cases (len : Byte) (cfg : Cfg) :
    variantOf .boiler len cfg = .assocBroadcast ∨ variantOf .boiler len cfg = .setTempResponse ∨
      variantOf .boiler len cfg = .unknown := by
  simp only [variantOf]; split_ifs <;> simp

theorem variantOf_probe_cases (len : Byte) (cfg : Cfg) :
    variantOf .probe len cfg = .init ∨ variantOf .probe len cfg = .assocAnnounce ∨
      variantOf .probe len cfg = .tempReport ∨ variantOf .probe len cfg = .unknown := by
  simp only [variantOf]; split_ifs <;> simp

theorem variantOf_satellite_cases (len : Byte) (cfg : Cfg) :
    variantOf .satellite len cfg = .tempReport ∨ variantOf .satellite len cfg = .unknown := by
  simp only [variantOf]; split_ifs <;> simp

/-- R71: a complete frame is of the row its family and length select. -/
theorem wellFormed_decodeVariant (cfg : Cfg) (fam : Family) (m : Metadata) (p : List Byte)
    (hlen : m.length.toNat = 6 + p.length) : WellFormed cfg (decodeVariant cfg fam m p) = true := by
  cases fam with
  | boiler =>
    rcases variantOf_boiler_cases m.length cfg with hv | hv | hv <;> simp only [decodeVariant, hv] <;>
      exact payloadSelects_of_length hlen hv
  | probe =>
    rcases variantOf_probe_cases m.length cfg with hv | hv | hv | hv <;> simp only [decodeVariant, hv] <;>
      exact payloadSelects_of_length hlen hv
  | satellite =>
    rcases variantOf_satellite_cases m.length cfg with hv | hv <;> simp only [decodeVariant, hv] <;>
      exact payloadSelects_of_length hlen hv

/-- R79, R80: the illegal rows are those of the failed checks. -/
theorem wellFormed_decodeFrameInstr (cfg : Cfg) (b : List Byte) : WellFormed cfg (decodeFrameInstr cfg b) = true := by
  rcases short_or_metaEncode b with hb | ⟨m, rest, rfl⟩
  · rw [decodeFrameInstr_of_shortHeader _ b hb, WellFormed]
    cases b with
    | nil => rfl
    | cons l rest => rw [badLength, decide_eq_true (by simpa using hb), Bool.true_or]
  by_cases hlen : m.length.toNat < 6
  · rw [decodeFrameInstr_of_lengthBelowSix _ m rest hlen]
    simp [WellFormed, metaEncode, badLength, hlen]
  cases hsrc : familyOf m.fromAddr with
  | none =>
    rw [decodeFrameInstr_of_unknownSource _ m rest hlen hsrc]
    simp [WellFormed, hsrc]; omega
  | some fam =>
    have hknown : familyOf m.fromAddr ≠ none := by rw [hsrc]; exact Option.some_ne_none fam
    by_cases htrunc : rest.length + 6 < m.length.toNat
    · rw [decodeFrameInstr_of_truncated _ m rest hlen hknown htrunc]
      simp [WellFormed, hknown]; omega
    · rw [decodeFrameInstr_of_checks _ fam m rest hlen hsrc htrunc]
      exact wellFormed_decodeVariant cfg fam m _ (by rw [List.length_take]; omega)

/-- R86, R184: a byte written to `CMD` is one of the eleven commands or an illegal code. -/
theorem wellFormed_decodeHostCmd (cfg : Cfg) (c : Byte) : WellFormed cfg (decodeHostCmd c) = true := by
  unfold decodeHostCmd
  split
  case h_12 =>
    simp only [imp_false] at *
    exact decide_eq_true (by omega)
  all_goals rfl

/-- R131: a frame argument the decoder accepts can be sent. -/
theorem sendable_of_decodeSendText (t b : List Byte) (h : decodeSendText t = some b) : sendable b = true := by
  unfold decodeSendText at h
  split at h
  · split at h
    · cases h; assumption
    · cases h
  · cases h

/-- What the transport takes from the link is one of the four calls, with an argument the call may have. -/
theorem decode_wire (cfg : Cfg) (w : WireItem) (i : Instr) (h : Sys2Proof.decode cfg (.wire w) = .ok i) :
    ∃ c, (∀ s, exec i s = .next (s.takeCall c)) ∧ WellFormed cfg i = true := by
  cases w with
  | line chars =>
    simp only [Sys2Proof.decode, decodeLine] at h
    split at h
    · cases h
    split_ifs at h
    · cases h; exact ⟨.receive, fun _ => rfl, rfl⟩
    · cases h; exact ⟨.sleep, fun _ => rfl, rfl⟩
    split at h
    · split at h
      · rename_i n _
        cases h; exact ⟨.setNetworkId n, fun _ => rfl, rfl⟩
      · cases h
    · split at h
      · rename_i b hb
        cases h; exact ⟨.send b, fun _ => rfl, sendable_of_decodeSendText _ b hb⟩
      · cases h
    · cases h
  | envelope tag field =>
    simp only [Sys2Proof.decode] at h
    unfold decodeEnvelope at h
    split at h
    · cases h; exact ⟨.receive, fun _ => rfl, rfl⟩
    · cases h; exact ⟨.sleep, fun _ => rfl, rfl⟩
    · split at h
      · rename_i n _
        cases h; exact ⟨.setNetworkId n, fun _ => rfl, rfl⟩
      · cases h
    · split at h
      · rename_i b hb
        cases h; exact ⟨.send b, fun _ => rfl, sendable_of_decodeSendText _ b hb⟩
      · cases h
    · cases h

/-- R142: a unit of the stream is one line. -/
theorem decode_incomingLine (cfg : Cfg) (chars : List Byte) (i : Instr)
    (h : Sys2Proof.decode cfg (.incomingLine chars) = .ok i) : ∃ text, i = .serialIncoming text ∧ splitLine text = none := by
  simp only [Sys2Proof.decode] at h
  split at h
  · rename_i text hs
    cases h; exact ⟨text, rfl, (splitLine_eq_some chars text [] hs).2⟩
  · cases h

/-- Settles O2: format by format; the frame rows by the checks that chose them, the arguments by the decoder's own checks. -/
theorem decodedInstructionsAreWellFormed : Obligations.DecodedInstructionsAreWellFormed := by
  intro cfg u i h
  cases u with
  | hostCmd c => cases h; exact wellFormed_decodeHostCmd cfg c
  | flagByte x => cases h; rfl
  | frame b => cases h; exact wellFormed_decodeFrameInstr cfg b
  | wire w =>
    obtain ⟨c, -, hw⟩ := decode_wire cfg w i h
    exact hw
  | incomingLine chars =>
    obtain ⟨text, rfl, hs⟩ := decode_incomingLine cfg chars i h
    rw [WellFormed, hs, Option.isNone_none]
  | incomingField text => cases h; rfl

/-! ### Written out -/

/-- Settles O3: eight closed runs of the decoder. -/
theorem specUnitsDecode : Obligations.SpecUnitsDecode := by
  refine ⟨?_, ?_, ?_, ?_, ?_, ?_, ?_, ?_⟩ <;> decide

/-- Settles O40: the wire forms are these lists as they are defined. -/
theorem wireFormsOfTheCalls : Obligations.WireFormsOfTheCalls :=
  fun _ _ _ => ⟨rfl, rfl, rfl, rfl, rfl, rfl, rfl, rfl⟩

end Sys2Proof.Machine
end

section
/-! PROOFS. What one step can do, said once: `step_effect` lists the ways a step can change the state, each with the
condition under which it happens. The invariant and the properties of every step are derived from this list. -/

namespace Sys2Proof.Machine

/-! ### What a failure of the codec records -/

/-- R192: the cause `UnknownSource` is recorded with expected count 0. -/
def Raised.WellCounted (r : Raised) : Prop := r.cause = .unknownSource → r.expected = 0

theorem Raised.wellCounted_of_ne {r : Raised} (h : r.cause ≠ .unknownSource) : r.WellCounted :=
  fun hr => absurd hr h

theorem hexDecode_error_wellCounted (t : List Byte) (r : Raised) (h : hexDecode t = .error r) : r.WellCounted :=
  Raised.wellCounted_of_ne (by simp [hexDecode_error_cause t r h])

theorem decodeFrame_error_wellCounted (b : List Byte) (r : Raised) (h : decodeFrame b = .error r) :
    r.WellCounted := by
  unfold decodeFrame at h
  split at h
  case h_1 hmeta =>
    cases h
    exact Raised.wellCounted_of_ne (by simp [metaDecode_error_cause b r hmeta])
  case h_2 =>
    split_ifs at h <;> cases h <;> simp [Raised.WellCounted]

theorem encodeFrame_error (m : Metadata) (p : List Byte) (r : Raised) (h : encodeFrame m p = .error r) :
    r.cause ≠ .ok ∧ r.WellCounted := by
  unfold encodeFrame at h
  split_ifs at h <;> cases h <;> simp [Raised.WellCounted]

/-! ### The list -/

/-- The state with the script, the link and the unread characters of the incoming stream as given. -/
def State.movedOn (s : State) (es : List Event) (ws : List WireItem) (cs : List Byte) : State :=
  { s with events := es, outbound := ws, incoming := cs }

/-- The ways a step can change a state in which its act has been taken off the script or the link. The first argument is
the script as it stood before the act. -/
inductive Effect (script : List Event) (s : State) : State → Prop
  /-- The act is ignored, or characters of the incoming stream have moved. -/
  | ignored : Effect script s s
  | hostRead (n : Nat) : Effect script s (s.hostRead n)
  /-- A write to a register other than `CMD` (R171, R185). -/
  | hostWrite (n : Nat) (v : PortWord) (es : List Event) (r : Reg) (hscript : script = .hostWrite n v :: es) (hn : n ≠ 0)
      (hbusy : s.busy = false) : Effect script s (s.writeReg r v)
  /-- A write at the flag byte's place (R121). -/
  | flagByte (n : Nat) (v : PortWord) (es : List Event) (o : Nat) (b : Byte) (hscript : script = .hostWrite n v :: es)
      (hn : n ≠ 0) (hbusy : s.busy = false) (ho : s.flagOffset = some o) :
      Effect script s (s.setByte (payloadBase + o) b)
  | reset (es : List Event) (hscript : script = .reset :: es) : Effect script s s.assertReset
  /-- The transport takes a call from the link. -/
  | taken (c : Call) : Effect script s (s.takeCall c)
  /-- A host command that starts and ends with a cause, or with success, in one step. -/
  | ended (code : Byte) (r : Raised) (hbusy : s.busy = false) (hr : r.WellCounted) :
      Effect script s ((s.startCommand code).endWith r)
  | filledBuf (code : Byte) (b : List Byte) (hbusy : s.busy = false) :
      Effect script s ((s.startCommand code).setBuf b).succeed
  | filledTxt (code : Byte) (t : List Byte) (hbusy : s.busy = false) :
      Effect script s ((s.startCommand code).setTxt t).succeed
  | loadedFrame (code : Byte) (f : Frame) (hbusy : s.busy = false) :
      Effect script s (((s.startCommand code).setFrame f).finish Raised.success 0#3 (f.head.length.toNat + 1))
  | returnedToIdle (code : Byte) (hbusy : s.busy = false) :
      Effect script s (s.startCommand code).returnToIdle.succeed
  /-- An accepted `ASSOC_START` (R178). -/
  | handshakeStarted (hbusy : s.busy = false) (hidle : s.assoc = .idle) (hcfg : cfgWF s.cfg = true) :
      Effect script s ((s.startCommand codeAssocStart).issue (.setNetworkId NetId.broadcast))
  /-- An accepted pass-through command (R180 to R183). -/
  | callStarted (code : Byte) (c : Call) (hbusy : s.busy = false) (hc : commandCall code c = true) :
      Effect script s ((s.startCommand code).issue c)
  /-- A receive of the handshake is answered with bytes. -/
  | delivered (b : List Byte) (hwait : s.activity = .waiting .receive) (hh : s.handshake = true) :
      Effect script s { s.setBuf b with activity := .decoding }
  /-- `T_RECEIVE` is answered with bytes. -/
  | received (b : List Byte) (hwait : s.activity = .waiting .receive) (hh : s.handshake = false) :
      Effect script s (s.setBuf b).succeed
  | malformed (hwait : s.activity = .waiting .receive) : Effect script s (s.raise ⟨.malformedHex, 0, 0⟩)
  | callFailed (c : Call) (es : List Event) (hwait : s.activity = .waiting c)
      (hscript : script = .answer s.issued .err :: es) : Effect script s (s.callFailed c)
  /-- A call of the handshake other than a receive is answered `ok`. -/
  | advanced (c : Call) (hwait : s.activity = .waiting c) (hc : c ≠ .receive) (hh : s.handshake = true) :
      Effect script s s.sequencerAnswered
  /-- The call of a pass-through command other than `T_RECEIVE` is answered `ok`. -/
  | callEnded (c : Call) (hwait : s.activity = .waiting c) (hh : s.handshake = false) : Effect script s s.succeed
  | acceptedBroadcast (f : Frame) (n : Nat) (hdec : s.activity = .decoding)
      (hf : decodeFrame s.bufBytes = .ok (f, n)) (hlisten : s.assoc = .awaitingBroadcast)
      (hb : isAssocBroadcast s.cfg f = true) :
      Effect script s { (s.setFrame f).latchBroadcast f with phase := 1#2, activity := .sequencing }
  /-- The codec has read a frame that takes the sequencer no further. -/
  | dropped (f : Frame) (p : BitVec 2) (hdec : s.activity = .decoding)
      (hp : p = 0#2 ∨ (p = s.phase ∧ s.assoc ≠ .awaitingBroadcast ∧ s.assoc ≠ .confirming)) :
      Effect script s { s.setFrame f with phase := p, activity := .sequencing }
  | paired (f : Frame) (n : Nat) (hdec : s.activity = .decoding) (hf : decodeFrame s.bufBytes = .ok (f, n))
      (hconfirm : s.assoc = .confirming) (hb : isBoiler f = true) :
      Effect script s ({ s.setFrame f with assoc := .paired, phase := 0#2 } : State).succeed
  /-- A frame that does not decode, or an act of the sequencer that fails. -/
  | handshakeFailed (r : Raised) (hrun : s.activity = .decoding ∨ s.activity = .sequencing) (hcause : r.cause ≠ .ok)
      (hr : r.WellCounted) : Effect script s (s.failHandshake r)
  /-- The sequencer calls. -/
  | called (c : Call) (hseq : s.activity = .sequencing) (hc : s.callDue c = true) : Effect script s (s.issue c)
  /-- The sequencer sends what it has written to `BUF`. -/
  | sent (b : List Byte) (hseq : s.activity = .sequencing) (hc : s.callDue (.send b) = true) :
      Effect script s ((s.setBuf b).issue (.send b))
  | enteredConfirming (hseq : s.activity = .sequencing) (hinit : s.assoc = .initialized) :
      Effect script s s.enterConfirming
  | iterated (hseq : s.activity = .sequencing) (hconfirm : s.assoc = .confirming)
      (hbelow : s.retryCnt.toNat < s.cfg.maxRetry.toNat) :
      Effect script s { s with retryCnt := s.retryCnt + 1#16, phase := 1#2 }

variable {script : List Event} {s t : State}

/-! ### The transport's and the codec's operations are on the list -/

theorem awaitsFrame_activity (h : s.awaitsFrame = true) : s.activity = .waiting .receive := by
  simp only [State.awaitsFrame, Bool.and_eq_true, decide_eq_true_eq] at h
  exact h.1

theorem Effect.deliver (b : List Byte) : Effect script s (s.deliver b) := by
  unfold State.deliver
  split_ifs with ha hh
  · exact .delivered b (awaitsFrame_activity ha) hh
  · exact .received b (awaitsFrame_activity ha) (Bool.eq_false_iff.2 hh)
  · exact .ignored

theorem Effect.deliverMalformed : Effect script s s.deliverMalformed := by
  unfold State.deliverMalformed
  split_ifs with ha
  · exact .malformed (awaitsFrame_activity ha)
  · exact .ignored

theorem Effect.callSucceeded (c : Call) (hwait : s.activity = .waiting c) (hc : c ≠ .receive) :
    Effect script s s.callSucceeded := by
  unfold State.callSucceeded
  split_ifs with hh
  · exact .advanced c hwait hc hh
  · exact .callEnded c hwait (Bool.eq_false_iff.2 hh)

/-- The sequencer's reaction to a decoded frame (R153, R158, R160). -/
theorem Effect.frameReceived (f : Frame) (n : Nat) (hdec : s.activity = .decoding)
    (hf : decodeFrame s.bufBytes = .ok (f, n)) : Effect script s ((s.setFrame f).frameReceived f) := by
  unfold State.frameReceived
  split
  case h_1 hlisten =>
    split_ifs with hb
    · exact .acceptedBroadcast f n hdec hf hlisten hb
    · exact .dropped f 0#2 hdec (.inl rfl)
  case h_2 hconfirm =>
    split_ifs with hb
    · exact .paired f n hdec hf hconfirm hb
    · exact .dropped f 0#2 hdec (.inl rfl)
  all_goals
    rename_i hassoc
    rw [State.setFrame_assoc] at hassoc
    exact .dropped f s.phase hdec (.inr ⟨rfl, by simp [hassoc], by simp [hassoc]⟩)

theorem Effect.runCodec (hdec : s.activity = .decoding) : Effect script s (s.runCodec s.bufBytes) := by
  unfold State.runCodec
  cases hf : decodeFrame s.bufBytes with
  | error r =>
    simp only [State.frameRejected, if_pos hdec]
    exact .handshakeFailed r (.inl hdec) (decodeFrame_error_cause _ r hf) (decodeFrame_error_wellCounted _ r hf)
  | ok p =>
    obtain ⟨f, n⟩ := p
    simp only [State.frameDecoded, if_pos hdec]
    exact .frameReceived f n hdec hf

/-! ### The sequencer's acts are on the list -/

theorem Effect.sendFrame (m : Metadata) (p : List Byte) (hseq : s.activity = .sequencing)
    (hc : ∀ b, s.callDue (.send b) = true) : Effect script s (s.sendFrame m p) := by
  unfold State.sendFrame
  cases hf : encodeFrame m p with
  | ok b => exact .sent b hseq (hc b)
  | error r =>
    obtain ⟨hcause, hr⟩ := encodeFrame_error m p r hf
    exact .handshakeFailed r (.inr hseq) hcause hr

theorem Effect.startIteration (hseq : s.activity = .sequencing) (hconfirm : s.assoc = .confirming) :
    Effect script s s.startIteration := by
  unfold State.startIteration
  split_ifs with hbound
  · exact .handshakeFailed _ (.inr hseq) (by simp) (Raised.wellCounted_of_ne (by simp))
  · exact .iterated hseq hconfirm (Nat.lt_of_not_le hbound)

theorem Effect.sequencerAct (hseq : s.activity = .sequencing) (h : s.sequencerAct = some t) : Effect script s t := by
  unfold State.sequencerAct at h
  cases hassoc : s.assoc with
  | idle =>
    simp only [hassoc, Option.some.injEq] at h
    subst h
    exact .called _ hseq (by simp [State.callDue, hassoc])
  | awaitingBroadcast =>
    simp only [hassoc] at h
    split_ifs at h with hp hp1 <;> simp only [Option.some.injEq] at h <;> subst h
    · exact .called _ hseq (by simp [State.callDue, hassoc, hp])
    · exact .sendFrame _ _ hseq (by simp [State.callDue, hassoc, hp, isSend])
  | announced =>
    simp only [hassoc, Option.some.injEq] at h
    subst h
    exact .called _ hseq (by simp [State.callDue, hassoc])
  | networkSwitched =>
    simp only [hassoc, Option.some.injEq] at h
    subst h
    exact .sendFrame _ _ hseq (by simp [State.callDue, hassoc, isSend])
  | initialized =>
    simp only [hassoc, Option.some.injEq] at h
    subst h
    exact .enteredConfirming hseq hassoc
  | confirming =>
    simp only [hassoc] at h
    split_ifs at h with hp0 hp1 hp2 <;> simp only [Option.some.injEq] at h <;> subst h
    · exact .startIteration hseq hassoc
    · exact .sendFrame _ _ hseq (by simp [State.callDue, hassoc, hp1, isSend])
    · exact .called _ hseq (by simp [State.callDue, hassoc, hp2])
  | paired | failed => simp [hassoc] at h

/-! ### The host commands are on the list -/

theorem Effect.hostCommand (c : Byte) (hbusy : s.busy = false) (h : exec (decodeHostCmd c) s = .next t) :
    Effect script s t := by
  unfold decodeHostCmd at h
  split at h
  · cases h; exact .ended _ Raised.success hbusy (by simp [Raised.WellCounted, Raised.success])
  · simp only [exec, execHexdec] at h
    split at h <;> cases h
    · exact .filledBuf _ _ hbusy
    · exact .ended _ _ hbusy (hexDecode_error_wellCounted _ _ ‹_›)
  · cases h; exact .filledTxt _ _ hbusy
  · simp only [exec, execDecode, State.runCodec] at h
    split at h <;> cases h
    · exact .loadedFrame _ _ hbusy
    · exact .ended _ _ hbusy (decodeFrame_error_wellCounted _ _ ‹_›)
  · simp only [exec, execEncode] at h
    split at h <;> cases h
    · exact .filledBuf _ _ hbusy
    · exact .ended _ _ hbusy (encodeFrame_error _ _ _ ‹_›).2
  · simp only [exec, execAssocStart] at h
    split_ifs at h with hidle hcfg <;> cases h
    · exact .ended _ _ hbusy (Raised.wellCounted_of_ne (by simp))
    · exact .ended _ _ hbusy (Raised.wellCounted_of_ne (by simp))
    · exact .handshakeStarted hbusy (not_not.1 hidle) (by simpa using hcfg)
  · cases h; exact .returnedToIdle _ hbusy
  · cases h; exact .callStarted _ _ hbusy (by decide)
  · simp only [exec, execTSetNid] at h
    split at h <;> cases h
    · exact .callStarted _ _ hbusy (by simp [commandCall])
    · exact .ended _ _ hbusy (Raised.wellCounted_of_ne (by simp))
  · simp only [exec, execTSend] at h
    split_ifs at h <;> cases h
    · exact .ended _ _ hbusy (Raised.wellCounted_of_ne (by simp))
    · exact .callStarted _ _ hbusy (by simp [commandCall])
  · cases h; exact .callStarted _ _ hbusy (by decide)
  · cases h; exact .ended _ _ hbusy (Raised.wellCounted_of_ne (by simp))

/-! ### The units a step fetches are on the list -/

theorem Effect.serialIncoming (text : List Byte) (h : exec (.serialIncoming text) s = .next t) : Effect script s t := by
  simp only [exec, execSerialIncoming] at h
  split at h <;> cases h
  · exact .deliver _
  · exact .ignored

theorem Effect.brokerIncoming (text : List Byte) (h : exec (.brokerIncoming text) s = .next t) : Effect script s t := by
  simp only [exec, execBrokerIncoming] at h
  split at h <;> cases h
  · exact .deliver _
  · exact .deliverMalformed

theorem Effect.flags (n : Nat) (v : PortWord) (es : List Event) (f : FlagFields) (hscript : script = .hostWrite n v :: es)
    (hn : n ≠ 0) (hbusy : s.busy = false) (h : exec (.flags f) s = .next t) : Effect script s t := by
  simp only [exec, execFlags] at h
  split at h <;> cases h
  · exact .flagByte n v es _ _ hscript hn hbusy ‹_›
  · exact .ignored

variable {u : Encoded} {s1 : State} {i : Instr}

/-- A line of the incoming stream (R142). -/
theorem Effect.fetchLine (hf : s.fetchLine = some (u, s1)) (hd : Sys2Proof.decode s1.cfg u = .ok i)
    (h : exec i s1 = .next t) : Effect script s1 t := by
  obtain ⟨line, rest, rfl, -, -⟩ := State.fetchLine_eq_some _ _ _ hf
  obtain ⟨text, rfl, -⟩ := decode_incomingLine _ _ _ hd
  exact .serialIncoming text h

/-- The units of a turn: an item of the link, the bytes that await the codec, a line of the stream (R14). -/
theorem Effect.fetchTurn (hf : s.fetchTurn = some (u, s1)) (hd : Sys2Proof.decode s1.cfg u = .ok i)
    (h : exec i s1 = .next t) : Effect script s1 t := by
  unfold State.fetchTurn at hf
  split at hf
  · cases hf
    obtain ⟨c, hexec, -⟩ := decode_wire _ _ _ hd
    rw [hexec] at h
    cases h
    exact .taken c
  · split_ifs at hf with hdec
    · cases hf
      cases hd
      rw [frameInstructionsRunTheCodec] at h
      cases h
      exact .runCodec hdec
    · exact .fetchLine hf hd h

/-- The units of a host write: a command, or the flag byte (R121, R172). -/
theorem Effect.fetchWrite (n : Nat) (v : PortWord) (es : List Event) (hscript : script = .hostWrite n v :: es)
    (hf : s.fetchWrite n v = some (u, s1)) (hd : Sys2Proof.decode s1.cfg u = .ok i) (h : exec i s1 = .next t) :
    Effect script s1 t := by
  unfold State.fetchWrite at hf
  split_ifs at hf with hbusy hn hplace <;> cases hf <;> cases hd
  · exact .hostCommand _ (Bool.eq_false_iff.2 hbusy) h
  · exact .flags n v es _ hscript hn (Bool.eq_false_iff.2 hbusy) h

/-- The units of an answer: the line that the characters complete, or the field (R142, R148). -/
theorem Effect.fetchAnswer (n : Nat) (a : Answer) (hf : s.fetchAnswer n a = some (u, s1))
    (hd : Sys2Proof.decode s1.cfg u = .ok i) (h : exec i s1 = .next t) : Effect script s1 t := by
  unfold State.fetchAnswer at hf
  split at hf
  · cases hf
  · split_ifs at hf
    split at hf
    · exact .fetchLine hf hd h
    · cases hf
      cases hd
      exact .brokerIncoming _ h

theorem Effect.fetch (hf : s.fetch = some (u, s1)) (hd : Sys2Proof.decode s1.cfg u = .ok i)
    (h : exec i s1 = .next t) : Effect s.events s1 t := by
  unfold State.fetch at hf
  split at hf
  · exact .fetchTurn hf hd h
  · exact .fetchTurn hf hd h
  · rename_i n v es hscript
    exact .fetchWrite n v es hscript hf hd h
  · cases hf
  · exact .fetchAnswer _ _ hf hd h
  · cases hf

/-! ### The acts that bring up no unit are on the list -/

theorem Effect.ownTurn (h : s.ownTurn = .next t) : Effect script s t := by
  unfold State.ownTurn at h
  split at h
  · rename_i hseq
    split at h <;> cases h
    exact .sequencerAct hseq ‹_›
  · cases h; exact .ignored
  · cases h
  · cases h

theorem Effect.givenTurn (h : s.givenTurn = .next t) : Effect script s t := by
  unfold State.givenTurn at h
  split at h
  · exact .ownTurn h
  all_goals cases h; exact .ignored

/-- A write to `CMD` outside a command brings up a unit, so a write that brings up none goes to another register or is
ignored. -/
theorem Effect.hostWriteEvent (n : Nat) (v : PortWord) (es : List Event) (hscript : script = .hostWrite n v :: es)
    (hf : s.fetchWrite n v = none) : Effect script s (s.hostWrite n v) := by
  unfold State.hostWrite
  split_ifs with hbusy
  · exact .ignored
  have hn : n ≠ 0 := by
    rintro rfl
    simp [State.fetchWrite, hbusy] at hf
  split
  · exact .hostWrite n v es _ hscript hn (Bool.eq_false_iff.2 hbusy)
  · exact .ignored

/-- An answer that completes no delivery (R135, R142, R213). Characters that have arrived have moved the stream. -/
theorem Effect.answeredEvent (n : Nat) (a : Answer) (es : List Event) (hscript : script = .answer n a :: es) :
    ∃ cs, Effect script (s.withIncoming cs) (s.answered n a) := by
  rcases s.answered_cases n a with h | ⟨c, hwait, hlast, rfl, h⟩ | ⟨text, -, -, -, h⟩ | ⟨c, text, hwait, hc, -, -, h⟩ <;>
    rw [h]
  · exact ⟨s.incoming, .ignored⟩
  · have hn : n = s.issued := by
      simp only [State.answersLast, Bool.and_eq_true, decide_eq_true_eq] at hlast
      exact hlast.1
    exact ⟨s.incoming, .callFailed c es hwait (hn ▸ hscript)⟩
  · rw [State.arrive_eq]
    exact ⟨_, .ignored⟩
  · exact ⟨s.incoming, .callSucceeded c hwait hc⟩

theorem Effect.runEvent (hf : s.fetch = none) (h : s.runEvent = .next t) :
    ∃ es cs, Effect s.events ((s.withEvents es).withIncoming cs) t := by
  unfold State.runEvent at h
  split at h
  · exact ⟨s.events, s.incoming, .ownTurn h⟩
  · rename_i es _
    exact ⟨es, s.incoming, (Effect.givenTurn h : Effect s.events (s.withEvents es) t)⟩
  · rename_i n v es hscript
    cases h
    simp only [State.fetch, hscript] at hf
    exact ⟨es, s.incoming, .hostWriteEvent n v es hscript hf⟩
  · rename_i n es _
    cases h
    exact ⟨es, s.incoming, (Effect.hostRead n : Effect s.events (s.withEvents es) _)⟩
  · rename_i n a es hscript
    cases h
    obtain ⟨cs, he⟩ := Effect.answeredEvent (s := s.withEvents es) n a es hscript
    exact ⟨es, cs, he⟩
  · rename_i es hscript
    cases h; exact ⟨es, s.incoming, .reset es hscript⟩

/-! ### The step -/

/-- What one step does: its act is taken off the script or the link, and the rest is one of the effects. -/
theorem step_effect (s t : State) (h : step s = .next t) :
    ∃ es ws cs, Effect s.events (s.movedOn es ws cs) t := by
  rcases step_cases s with ⟨u, s1, i, hf, hd, hs⟩ | ⟨u, s1, e, hf, hd, hs⟩ | ⟨hf, hs⟩ <;> rw [hs] at h
  · have hmoved : s1 = s.movedOn s1.events s1.outbound s1.incoming := s.fetch_state s1 u hf
    refine ⟨s1.events, s1.outbound, s1.incoming, ?_⟩
    rw [← hmoved]
    exact .fetch hf hd h
  · have hmoved : s1 = s.movedOn s1.events s1.outbound s1.incoming := s.fetch_state s1 u hf
    have ht : t = s1 := by cases e <;> cases h; rfl
    refine ⟨s1.events, s1.outbound, s1.incoming, ?_⟩
    rw [← hmoved, ht]
    exact .ignored
  · obtain ⟨es, cs, he⟩ := Effect.runEvent hf h
    exact ⟨es, s.outbound, cs, he⟩

end Sys2Proof.Machine
end

section
/-! PROOFS. The invariant: the reset state has it, and each effect of `step_effect` keeps it. A state at the end of a
command is handled by `Inv.of_idle`; the other effects are moves of a command that runs. -/

namespace Sys2Proof.Machine

/-! ### The parts of the invariant -/

/-- What the invariant says of memory, the buffer lengths and the latched source, whatever command runs. -/
structure State.StoreWf (s : State) : Prop where
  memory : Memory.wf s.mem = true
  bufLen : s.bufLen.toNat ≤ 256
  txtLen : s.txtLen.toNat ≤ 512
  bcFrom : s.bcFrom = 0#8 ∨ s.bcFrom = 0x80#8

variable {s t : State}

theorem State.Inv.storeWf (h : s.Inv) : s.StoreWf := ⟨h.memory, h.bufLen, h.txtLen, h.bcFrom⟩

theorem State.StoreWf.setBuf (h : s.StoreWf) (b : List Byte) : (s.setBuf b).StoreWf :=
  ⟨s.setBuf_wf b h.memory, by simp [bufSize]; omega, h.txtLen, h.bcFrom⟩

theorem State.StoreWf.setTxt (h : s.StoreWf) (t : List Byte) : (s.setTxt t).StoreWf :=
  ⟨s.setTxt_wf t h.memory, h.bufLen, by simp [txtSize]; omega, h.bcFrom⟩

theorem State.StoreWf.setFrame (h : s.StoreWf) (f : Frame) : (s.setFrame f).StoreWf :=
  ⟨s.setFrame_wf f h.memory, h.bufLen, h.txtLen, h.bcFrom⟩

theorem State.StoreWf.startCommand (h : s.StoreWf) (code : Byte) : (s.startCommand code).StoreWf :=
  ⟨h.memory, h.bufLen, h.txtLen, h.bcFrom⟩

/-- The invariant where no command runs. -/
theorem State.Inv.of_idle (hstore : s.StoreWf) (hstatus : s.statusWf = true) (hresult : s.result.toNat ≤ 10)
    (hconsumed : s.consumed.toNat ≤ 256) (hidle : s.activity = .idle) (hbusy : s.busy = false)
    (hrest : atRest s.assoc = true) (hphase : phaseLegal s.assoc s.phase = true) : s.Inv where
  memory := hstore.memory
  status := hstatus
  result := hresult
  consumed := hconsumed
  bufLen := hstore.bufLen
  txtLen := hstore.txtLen
  phase := hphase
  activity := by simp [State.activityWf, hidle, hbusy, hrest]
  retry := by simp [State.retryWf, hbusy]
  bcFrom := hstore.bcFrom

/-- Where no command runs, no handshake is under way (R28, R166). -/
theorem State.Inv.idle_of_not_busy (h : s.Inv) (hbusy : s.busy = false) :
    s.activity = .idle ∧ atRest s.assoc = true := by
  have hactivity := h.activity
  unfold State.activityWf at hactivity
  split at hactivity
  case h_1 hidle => exact ⟨hidle, by simpa [hbusy] using hactivity⟩
  all_goals simp [State.inHandshake, hbusy] at hactivity

/-- A running sequencer is in a handshake's state (R166). -/
theorem State.Inv.of_sequencing (h : s.Inv) (hseq : s.activity = .sequencing) :
    s.inHandshake = true ∧ atRest s.assoc = false := by
  simpa [State.activityWf, hseq] using h.activity

/-- Received bytes await the codec in the two receiving phases alone (R153, R158). -/
theorem State.Inv.of_decoding (h : s.Inv) (hdec : s.activity = .decoding) :
    s.inHandshake = true ∧
      ((s.assoc = .awaitingBroadcast ∧ s.phase = 0#2) ∨ (s.assoc = .confirming ∧ s.phase = 2#2)) := by
  simpa [State.activityWf, hdec] using h.activity

/-- A handshake waits for the call of its state and phase (R166). -/
theorem State.Inv.of_waiting_handshake (h : s.Inv) {c : Call} (hwait : s.activity = .waiting c)
    (hh : s.handshake = true) : s.inHandshake = true ∧ s.callDue c = true := by
  simpa [State.activityWf, hwait, hh] using h.activity

/-- A pass-through command waits for its own call, with no handshake under way (R180 to R183). -/
theorem State.Inv.of_waiting_command (h : s.Inv) {c : Call} (hwait : s.activity = .waiting c)
    (hh : s.handshake = false) : s.busy = true ∧ atRest s.assoc = true ∧ commandCall s.cmd c = true := by
  simpa [State.activityWf, hwait, hh, and_assoc] using h.activity

theorem State.inHandshake_iff : s.inHandshake = true ↔ s.busy = true ∧ s.handshake = true ∧ cfgWF s.cfg = true := by
  simp [State.inHandshake, and_assoc]

/-! ### What the invariant does not speak of -/

/-- The fields the invariant speaks of. -/
def State.invView (s : State) :=
  (s.mem, s.status, s.result, s.consumed, s.bufLen, s.txtLen, s.assoc, s.phase, s.activity, s.cmd, s.cfg, s.retryCnt,
    s.bcFrom, s.bcNetId)

theorem State.Inv.congr (h : s.Inv) (hview : t.invView = s.invView) : t.Inv := by
  simp only [State.invView, Prod.mk.injEq] at hview
  obtain ⟨hmem, hstatus, hresult, hconsumed, hbuf, htxt, hassoc, hphase, hactivity, hcmd, hcfg, hretry, hfrom, hnid⟩ := hview
  constructor
  · rw [hmem]; exact h.memory
  · simpa [State.statusWf, State.busy, State.commandOver, hstatus, hresult] using h.status
  · rw [hresult]; exact h.result
  · rw [hconsumed]; exact h.consumed
  · rw [hbuf]; exact h.bufLen
  · rw [htxt]; exact h.txtLen
  · rw [hassoc, hphase]; exact h.phase
  · simpa [State.activityWf, State.inHandshake, State.busy, State.handshake, State.callDue, hstatus, hassoc, hphase,
      hactivity, hcmd, hcfg, hnid] using h.activity
  · simpa [State.retryWf, State.busy, State.handshake, hstatus, hassoc, hcmd, hcfg, hretry] using h.retry
  · rw [hfrom]; exact h.bcFrom

theorem State.Inv.movedOn (h : s.Inv) (es : List Event) (ws : List WireItem) (cs : List Byte) : (s.movedOn es ws cs).Inv :=
  h.congr rfl

theorem State.Inv.hostRead (h : s.Inv) (n : Nat) : (s.hostRead n).Inv := by
  rw [State.hostRead_frame]
  exact h.congr rfl

theorem State.Inv.takeCall (h : s.Inv) (c : Call) : (s.takeCall c).Inv := h.congr (by simp [State.invView])

theorem State.Inv.radioAfterErr (h : s.Inv) (c : Call) : (s.radioAfterErr c).Inv := h.congr (by simp [State.invView])

/-! ### Starting and ending a command -/

theorem State.statusWf_iff : s.statusWf = true ↔
    s.status.toNat < 16 ∧ statusErr s.status = decide (s.result ≠ 0#8) ∧ (s.busy && s.commandOver) = false := by
  simp only [State.statusWf, Bool.and_eq_true, decide_eq_true_eq, beq_iff_eq, Bool.not_eq_true', and_assoc]

theorem statusWf_finish (s : State) (r : Raised) (e : BitVec 3) (n : Nat) : (s.finish r e n).statusWf = true := by
  refine State.statusWf_iff.2 ⟨mkStatus_lt _ _ _ _, ?_, ?_⟩
  · simp only [State.finish, statusEnd, statusErr_mk]
    exact (causeCode_ne_zero r.cause).symm
  · simp [State.finish, State.busy]

theorem statusWf_startCommand (h : s.statusWf = true) (code : Byte) : (s.startCommand code).statusWf = true := by
  obtain ⟨-, herr, -⟩ := State.statusWf_iff.1 h
  refine State.statusWf_iff.2 ⟨mkStatus_lt _ _ _ _, ?_, ?_⟩
  · rw [State.startCommand_status, statusErr_start]
    exact herr
  · simp [State.commandOver, statusStart]

theorem State.Inv.finish (hstore : s.StoreWf) (hrest : atRest s.assoc = true) (hphase : phaseLegal s.assoc s.phase = true)
    (r : Raised) (e : BitVec 3) (n : Nat) (hn : n ≤ 256) : (s.finish r e n).Inv :=
  .of_idle ⟨hstore.memory, hstore.bufLen, hstore.txtLen, hstore.bcFrom⟩ (statusWf_finish s r e n) (causeCode_le r.cause)
    (by simp [State.finish]; omega) rfl (statusBusy_end _ _) hrest hphase

theorem State.Inv.succeed (hstore : s.StoreWf) (hrest : atRest s.assoc = true)
    (hphase : phaseLegal s.assoc s.phase = true) : s.succeed.Inv :=
  .finish hstore hrest hphase Raised.success 0#3 0 (by omega)

theorem State.Inv.endWith (hstore : s.StoreWf) (hrest : atRest s.assoc = true)
    (hphase : phaseLegal s.assoc s.phase = true) (r : Raised) : (s.endWith r).Inv :=
  .finish hstore hrest hphase r 0#3 0 (by omega)

/-- A handshake fails from any state and phase: what is left is `Failed` and a command that is over (R162). -/
theorem State.Inv.failHandshake (hstore : s.StoreWf) (r : Raised) : (s.failHandshake r).Inv :=
  .of_idle ⟨hstore.memory, hstore.bufLen, hstore.txtLen, hstore.bcFrom⟩ (statusWf_finish s r (assocCode s.assoc) 0) (causeCode_le r.cause)
    (by simp) rfl (statusBusy_end _ _) rfl rfl

/-- A failure of the command that waits for a call (R135, R163, R183). -/
theorem State.Inv.raise (h : s.Inv) {c : Call} (hwait : s.activity = .waiting c) (r : Raised) : (s.raise r).Inv := by
  unfold State.raise
  split_ifs with hh
  · exact .failHandshake h.storeWf r
  · obtain ⟨-, hrest, -⟩ := h.of_waiting_command hwait (Bool.eq_false_iff.2 hh)
    exact .endWith h.storeWf hrest h.phase r

/-- A command that starts and makes its call. -/
theorem State.Inv.startCommand_issue (h : s.Inv) (code : Byte) (c : Call) (hrest : atRest s.assoc = true)
    (hactivity : ((s.startCommand code).issue c).activityWf = true) : ((s.startCommand code).issue c).Inv where
  memory := h.memory
  status := statusWf_startCommand h.status code
  result := h.result
  consumed := h.consumed
  bufLen := h.bufLen
  txtLen := h.txtLen
  phase := h.phase
  activity := hactivity
  retry := by
    have hassoc : s.assoc ≠ .confirming := by rintro ha; simp [ha, atRest] at hrest
    simp [State.retryWf, hassoc]
  bcFrom := h.bcFrom

/-! ### Host writes -/

theorem State.StoreWf.writeReg (h : s.StoreWf) (r : Reg) (v : PortWord) : (s.writeReg r v).StoreWf := by
  cases r with
  | bufLen =>
    simp only [State.writeReg]
    split_ifs with hv
    · refine ⟨h.memory, ?_, h.txtLen, h.bcFrom⟩
      simp [bufSize] at hv ⊢; omega
    · exact h
  | txtLen =>
    simp only [State.writeReg]
    split_ifs with hv
    · refine ⟨h.memory, h.bufLen, ?_, h.bcFrom⟩
      simp [txtSize] at hv ⊢; omega
    · exact h
  | element a =>
    simp only [State.writeReg]
    split_ifs with ha
    · exact ⟨s.setByte_wf a _ ha h.memory, h.bufLen, h.txtLen, h.bcFrom⟩
    · exact h
  | _ => exact ⟨h.memory, h.bufLen, h.txtLen, h.bcFrom⟩

/-- A write outside a command (R25, R26, R38). -/
theorem State.Inv.writeReg (h : s.Inv) (hbusy : s.busy = false) (r : Reg) (v : PortWord) : (s.writeReg r v).Inv := by
  obtain ⟨hidle, hrest⟩ := h.idle_of_not_busy hbusy
  have hstore := h.storeWf.writeReg r v
  rw [State.writeReg_frame] at hstore ⊢
  exact .of_idle hstore h.status h.result h.consumed hidle hbusy hrest h.phase

theorem State.Inv.setByte (h : s.Inv) (hbusy : s.busy = false) (a : Nat) (b : Byte) (ha : inArray a = true) :
    (s.setByte a b).Inv := by
  obtain ⟨hidle, hrest⟩ := h.idle_of_not_busy hbusy
  exact .of_idle ⟨s.setByte_wf a b ha h.memory, h.bufLen, h.txtLen, h.bcFrom⟩ h.status h.result h.consumed hidle hbusy
    hrest h.phase

/-- Settles O55: no command runs, and every register the invariant bounds is 0. -/
theorem invAtReset : Obligations.InvAtReset :=
  .of_idle ⟨State.reset_mem_wf, by decide, by decide, .inl rfl⟩ rfl (by decide) (by decide) rfl rfl rfl rfl

theorem State.Inv.assertReset (s : State) : s.assertReset.Inv := invAtReset.congr rfl

/-! ### The running handshake -/

/-- The moves of a running handshake change neither the command nor its results. -/
theorem State.Inv.of_running (hstore : t.StoreWf) (h : s.Inv) (hstatus : t.status = s.status) (hresult : t.result = s.result)
    (hconsumed : t.consumed = s.consumed) (hphase : phaseLegal t.assoc t.phase = true) (hactivity : t.activityWf = true)
    (hretry : t.assoc = .confirming → t.retryCnt.toNat ≤ t.cfg.maxRetry.toNat) : t.Inv where
  memory := hstore.memory
  status := by simpa [State.statusWf, State.busy, State.commandOver, hstatus, hresult] using h.status
  result := hresult ▸ h.result
  consumed := hconsumed ▸ h.consumed
  bufLen := hstore.bufLen
  txtLen := hstore.txtLen
  phase := hphase
  activity := hactivity
  retry := by
    by_cases ha : t.assoc = .confirming
    · simp [State.retryWf, hretry ha]
    · simp [State.retryWf, ha]
  bcFrom := hstore.bcFrom

theorem State.activityWf_of_waiting {c : Call} (hwait : t.activity = .waiting c) (hin : t.inHandshake = true)
    (hc : t.callDue c = true) : t.activityWf = true := by
  obtain ⟨-, hh, -⟩ := State.inHandshake_iff.1 hin
  simp [State.activityWf, hwait, hh, hin, hc]

theorem State.activityWf_of_sequencing (hseq : t.activity = .sequencing) (hin : t.inHandshake = true)
    (hrest : atRest t.assoc = false) : t.activityWf = true := by
  simp [State.activityWf, hseq, hin, hrest]

theorem State.activityWf_of_decoding (hdec : t.activity = .decoding) (hin : t.inHandshake = true)
    (hreceiving : (t.assoc = .awaitingBroadcast ∧ t.phase = 0#2) ∨ (t.assoc = .confirming ∧ t.phase = 2#2)) :
    t.activityWf = true := by
  simpa [State.activityWf, hdec, hin] using hreceiving

/-- R23: the retry counter of a running handshake. -/
theorem State.Inv.retryCnt_le (h : s.Inv) (hin : s.inHandshake = true) (hconfirm : s.assoc = .confirming) :
    s.retryCnt.toNat ≤ s.cfg.maxRetry.toNat := by
  obtain ⟨hbusy, hh, -⟩ := State.inHandshake_iff.1 hin
  simpa [State.retryWf, hbusy, hh, hconfirm] using h.retry

/-- The sequencer calls (R166). -/
theorem State.Inv.called (h : s.Inv) (hseq : s.activity = .sequencing) (c : Call) (hc : s.callDue c = true) :
    (s.issue c).Inv := by
  obtain ⟨hin, -⟩ := h.of_sequencing hseq
  exact .of_running ⟨h.memory, h.bufLen, h.txtLen, h.bcFrom⟩ h rfl rfl rfl h.phase
    (State.activityWf_of_waiting rfl hin hc) (h.retryCnt_le hin)

/-- New bytes in `BUF` are no matter to what runs. -/
theorem State.Inv.setBuf (h : s.Inv) (b : List Byte) : (s.setBuf b).Inv := by
  obtain ⟨hmem, hbuf, htxt, hfrom⟩ := h.storeWf.setBuf b
  exact ⟨hmem, h.status, h.result, h.consumed, hbuf, htxt, h.phase, h.activity, h.retry, hfrom⟩

/-- The answer to a receive of the handshake goes to the codec (R153, R158). -/
theorem State.Inv.delivered (h : s.Inv) (b : List Byte) (hwait : s.activity = .waiting .receive)
    (hh : s.handshake = true) : ({ s.setBuf b with activity := .decoding } : State).Inv := by
  obtain ⟨hin, hc⟩ := h.of_waiting_handshake hwait hh
  have hreceiving : (s.assoc = .awaitingBroadcast ∧ s.phase = 0#2) ∨ (s.assoc = .confirming ∧ s.phase = 2#2) := by
    unfold State.callDue at hc
    split at hc <;> simp_all [isSend]
  obtain ⟨hmem, hbuf, htxt, hfrom⟩ := h.storeWf.setBuf b
  exact .of_running ⟨hmem, hbuf, htxt, hfrom⟩ h rfl rfl rfl h.phase
    (State.activityWf_of_decoding rfl hin hreceiving) (h.retryCnt_le hin)

/-- The answer to another call of the handshake takes the sequencer to its next state or phase (R166). -/
theorem State.Inv.sequencerAnswered (h : s.Inv) {c : Call} (hwait : s.activity = .waiting c)
    (hh : s.handshake = true) : s.sequencerAnswered.Inv := by
  obtain ⟨hin, hdue⟩ := h.of_waiting_handshake hwait hh
  have hstore : s.StoreWf := h.storeWf
  unfold State.sequencerAnswered
  split
  case h_5 hconfirm =>
    exact .of_running ⟨hstore.memory, hstore.bufLen, hstore.txtLen, hstore.bcFrom⟩ h rfl rfl rfl (by simp [phaseLegal, hconfirm])
      (State.activityWf_of_sequencing rfl hin (by simp [hconfirm, atRest])) (h.retryCnt_le hin)
  case h_6 ha | h_7 ha | h_8 ha => simp [State.callDue, ha] at hdue
  all_goals
    exact .of_running ⟨hstore.memory, hstore.bufLen, hstore.txtLen, hstore.bcFrom⟩ h rfl rfl rfl rfl
      (State.activityWf_of_sequencing rfl hin rfl) (fun ha => nomatch ha)

/-- R99, R116: an association broadcast is a boiler's. -/
theorem fromAddr_of_isAssocBroadcast {cfg : Cfg} {f : Frame} (h : isAssocBroadcast cfg f = true) :
    f.head.fromAddr = 0x80#8 := by
  simp only [isAssocBroadcast, Bool.and_eq_true, decide_eq_true_eq] at h
  exact familyOf_eq_boiler _ h.1

theorem State.Inv.acceptedBroadcast (h : s.Inv) (f : Frame) (hdec : s.activity = .decoding)
    (hlisten : s.assoc = .awaitingBroadcast) (hb : isAssocBroadcast s.cfg f = true) :
    ({ (s.setFrame f).latchBroadcast f with phase := 1#2, activity := .sequencing } : State).Inv := by
  obtain ⟨hin, -⟩ := h.of_decoding hdec
  obtain ⟨hmem, hbuf, htxt, -⟩ := h.storeWf.setFrame f
  exact .of_running ⟨hmem, hbuf, htxt, .inr (fromAddr_of_isAssocBroadcast hb)⟩ h rfl rfl rfl
    (by simp [phaseLegal, hlisten])
    (State.activityWf_of_sequencing rfl hin (by simp [hlisten, atRest])) (h.retryCnt_le hin)

theorem State.Inv.dropped (h : s.Inv) (f : Frame) (p : BitVec 2) (hdec : s.activity = .decoding)
    (hp : p = 0#2 ∨ (p = s.phase ∧ s.assoc ≠ .awaitingBroadcast ∧ s.assoc ≠ .confirming)) :
    ({ s.setFrame f with phase := p, activity := .sequencing } : State).Inv := by
  obtain ⟨hin, hreceiving⟩ := h.of_decoding hdec
  obtain ⟨hmem, hbuf, htxt, hfrom⟩ := h.storeWf.setFrame f
  obtain rfl : p = 0#2 := by
    rcases hp with hp | ⟨-, hlisten, hconfirm⟩
    · exact hp
    · rcases hreceiving with ⟨ha, -⟩ | ⟨ha, -⟩
      · exact absurd ha hlisten
      · exact absurd ha hconfirm
  refine .of_running ⟨hmem, hbuf, htxt, hfrom⟩ h rfl rfl rfl ?_ (State.activityWf_of_sequencing rfl hin ?_)
    (h.retryCnt_le hin)
  all_goals rcases hreceiving with ⟨ha, -⟩ | ⟨ha, -⟩ <;> simp [ha, phaseLegal, atRest]

theorem State.Inv.enterConfirming (h : s.Inv) (hseq : s.activity = .sequencing) : s.enterConfirming.Inv := by
  obtain ⟨hin, -⟩ := h.of_sequencing hseq
  exact .of_running ⟨h.memory, h.bufLen, h.txtLen, h.bcFrom⟩ h rfl rfl rfl rfl
    (State.activityWf_of_sequencing hseq hin rfl) (fun _ => Nat.zero_le _)

theorem State.Inv.iterated (h : s.Inv) (hseq : s.activity = .sequencing) (hconfirm : s.assoc = .confirming)
    (hbelow : s.retryCnt.toNat < s.cfg.maxRetry.toNat) :
    ({ s with retryCnt := s.retryCnt + 1#16, phase := 1#2 } : State).Inv := by
  obtain ⟨hin, -⟩ := h.of_sequencing hseq
  refine .of_running ⟨h.memory, h.bufLen, h.txtLen, h.bcFrom⟩ h rfl rfl rfl (by simp [phaseLegal, hconfirm])
    (State.activityWf_of_sequencing hseq hin (by simp [hconfirm, atRest])) fun _ => ?_
  rw [toNat_add_one_of_lt hbelow]
  exact hbelow

/-! ### The step -/

/-- The call of a pass-through command is no handshake's (R86). -/
theorem ne_codeAssocStart_of_commandCall {code : Byte} {c : Call} (h : commandCall code c = true) :
    code ≠ codeAssocStart := by
  rintro rfl
  cases c <;> simp [commandCall, codeAssocStart] at h

/-- Every effect keeps the invariant. -/
theorem Effect.inv {script : List Event} (he : Effect script s t) (h : s.Inv) : t.Inv := by
  cases he with
  | ignored => exact h
  | hostRead n => exact h.hostRead n
  | hostWrite n v es r _ _ hbusy => exact h.writeReg hbusy r v
  | flagByte n v es o b _ _ hbusy ho => exact h.setByte hbusy _ b (inArray_payload o (s.flagOffset_lt o ho).2)
  | reset => exact .assertReset s
  | taken c => exact h.takeCall c
  | ended code r hbusy =>
    exact .endWith (h.storeWf.startCommand code) (h.idle_of_not_busy hbusy).2 h.phase r
  | filledBuf code b hbusy =>
    exact .succeed ((h.storeWf.startCommand code).setBuf b) (h.idle_of_not_busy hbusy).2 h.phase
  | filledTxt code t hbusy =>
    exact .succeed ((h.storeWf.startCommand code).setTxt t) (h.idle_of_not_busy hbusy).2 h.phase
  | loadedFrame code f hbusy =>
    exact .finish ((h.storeWf.startCommand code).setFrame f) (h.idle_of_not_busy hbusy).2 h.phase _ _ _ f.head.length.isLt
  | returnedToIdle code hbusy =>
    exact .succeed ⟨h.memory, h.bufLen, h.txtLen, .inl rfl⟩ rfl rfl
  | handshakeStarted hbusy hidle hcfg =>
    refine h.startCommand_issue _ _ (h.idle_of_not_busy hbusy).2 (State.activityWf_of_waiting rfl ?_ ?_)
    · simp [State.inHandshake, State.busy, State.handshake, hcfg]
    · simp [State.callDue, hidle]
  | callStarted code c hbusy hc =>
    have hrest := (h.idle_of_not_busy hbusy).2
    refine h.startCommand_issue _ _ hrest ?_
    simp [State.activityWf, State.handshake, State.busy, ne_codeAssocStart_of_commandCall hc, hrest, hc]
  | delivered b hwait hh => exact h.delivered b hwait hh
  | received b hwait hh =>
    exact .succeed (h.storeWf.setBuf b) (h.of_waiting_command hwait hh).2.1 h.phase
  | malformed hwait => exact h.raise hwait _
  | callFailed c es hwait => exact (h.radioAfterErr c).raise (by simpa using hwait) _
  | advanced c hwait hc hh => exact h.sequencerAnswered hwait hh
  | callEnded c hwait hh => exact .succeed h.storeWf (h.of_waiting_command hwait hh).2.1 h.phase
  | acceptedBroadcast f n hdec hf hlisten hb => exact h.acceptedBroadcast f hdec hlisten hb
  | dropped f p hdec hp => exact h.dropped f p hdec hp
  | paired f n hdec hf hconfirm hb =>
    obtain ⟨hmem, hbuf, htxt, hfrom⟩ := h.storeWf.setFrame f
    exact .succeed ⟨hmem, hbuf, htxt, hfrom⟩ rfl rfl
  | handshakeFailed r => exact .failHandshake h.storeWf r
  | called c hseq hc => exact h.called hseq c hc
  | sent b hseq hc => exact (h.setBuf b).called hseq _ hc
  | enteredConfirming hseq => exact h.enterConfirming hseq
  | iterated hseq hconfirm hbelow => exact h.iterated hseq hconfirm hbelow

/-- Settles O54: the act is taken off the script or the link, of which the invariant does not speak, and its effect keeps
the invariant. -/
theorem invKeptByEveryStep : Obligations.InvKeptByEveryStep := by
  intro s t h hstep
  obtain ⟨es, ws, cs, he⟩ := step_effect s t hstep
  exact he.inv (h.movedOn es ws cs)

end Sys2Proof.Machine
end

section
/-! PROOFS. What every step keeps: FATAL, the configuration and the templates, the radio's identity, the count of calls,
and the ways into and out of the sequencer's states. Each is read off the list of effects. -/

namespace Sys2Proof.Machine

variable {script : List Event} {s t : State}

/-! ### Fields of the operations that branch -/

theorem State.raise_eq_finish (s : State) (r : Raised) :
    (s.handshake = true ∧ s.raise r = s.failHandshake r) ∨ (s.handshake = false ∧ s.raise r = s.endWith r) := by
  unfold State.raise
  cases s.handshake
  · exact .inr ⟨rfl, rfl⟩
  · exact .inl ⟨rfl, rfl⟩

@[simp] theorem State.raise_status (s : State) (r : Raised) : (s.raise r).status = statusEnd s.status r.cause := by
  unfold State.raise; split <;> rfl
@[simp] theorem State.raise_result (s : State) (r : Raised) : (s.raise r).result = r.cause.code := by
  unfold State.raise; split <;> rfl
@[simp] theorem State.raise_cfg (s : State) (r : Raised) : (s.raise r).cfg = s.cfg := by
  unfold State.raise; split <;> rfl
@[simp] theorem State.raise_mem (s : State) (r : Raised) : (s.raise r).mem = s.mem := by
  unfold State.raise; split <;> rfl
@[simp] theorem State.raise_activity (s : State) (r : Raised) : (s.raise r).activity = .idle := by
  unfold State.raise; split <;> rfl
@[simp] theorem State.raise_issued (s : State) (r : Raised) : (s.raise r).issued = s.issued := by
  unfold State.raise; split <;> rfl
@[simp] theorem State.raise_radioNetId (s : State) (r : Raised) : (s.raise r).radioNetId = s.radioNetId := by
  unfold State.raise; split <;> rfl

@[simp] theorem State.sequencerAnswered_status (s : State) : s.sequencerAnswered.status = s.status := by
  unfold State.sequencerAnswered; split <;> rfl
@[simp] theorem State.sequencerAnswered_cfg (s : State) : s.sequencerAnswered.cfg = s.cfg := by
  unfold State.sequencerAnswered; split <;> rfl
@[simp] theorem State.sequencerAnswered_mem (s : State) : s.sequencerAnswered.mem = s.mem := by
  unfold State.sequencerAnswered; split <;> rfl
@[simp] theorem State.sequencerAnswered_activity (s : State) : s.sequencerAnswered.activity = .sequencing := by
  unfold State.sequencerAnswered; split <;> rfl
@[simp] theorem State.sequencerAnswered_issued (s : State) : s.sequencerAnswered.issued = s.issued := by
  unfold State.sequencerAnswered; split <;> rfl
@[simp] theorem State.sequencerAnswered_radioNetId (s : State) : s.sequencerAnswered.radioNetId = s.radioNetId := by
  unfold State.sequencerAnswered; split <;> rfl

@[simp] theorem State.hostRead_status (s : State) (n : Nat) : (s.hostRead n).status = s.status := by
  rw [State.hostRead_frame]
@[simp] theorem State.hostRead_cfg (s : State) (n : Nat) : (s.hostRead n).cfg = s.cfg := by rw [State.hostRead_frame]
@[simp] theorem State.hostRead_mem (s : State) (n : Nat) : (s.hostRead n).mem = s.mem := by rw [State.hostRead_frame]
@[simp] theorem State.hostRead_activity (s : State) (n : Nat) : (s.hostRead n).activity = s.activity := by
  rw [State.hostRead_frame]
@[simp] theorem State.hostRead_issued (s : State) (n : Nat) : (s.hostRead n).issued = s.issued := by
  rw [State.hostRead_frame]
@[simp] theorem State.hostRead_radioNetId (s : State) (n : Nat) : (s.hostRead n).radioNetId = s.radioNetId := by
  rw [State.hostRead_frame]
@[simp] theorem State.hostRead_assoc (s : State) (n : Nat) : (s.hostRead n).assoc = s.assoc := by
  rw [State.hostRead_frame]
@[simp] theorem State.hostRead_phase (s : State) (n : Nat) : (s.hostRead n).phase = s.phase := by
  rw [State.hostRead_frame]

@[simp] theorem State.writeReg_status (s : State) (r : Reg) (v : PortWord) : (s.writeReg r v).status = s.status := by
  rw [State.writeReg_frame]
@[simp] theorem State.writeReg_activity (s : State) (r : Reg) (v : PortWord) :
    (s.writeReg r v).activity = s.activity := by rw [State.writeReg_frame]
@[simp] theorem State.writeReg_issued (s : State) (r : Reg) (v : PortWord) : (s.writeReg r v).issued = s.issued := by
  rw [State.writeReg_frame]
@[simp] theorem State.writeReg_radioNetId (s : State) (r : Reg) (v : PortWord) :
    (s.writeReg r v).radioNetId = s.radioNetId := by rw [State.writeReg_frame]
@[simp] theorem State.writeReg_assoc (s : State) (r : Reg) (v : PortWord) : (s.writeReg r v).assoc = s.assoc := by
  rw [State.writeReg_frame]
@[simp] theorem State.writeReg_phase (s : State) (r : Reg) (v : PortWord) : (s.writeReg r v).phase = s.phase := by
  rw [State.writeReg_frame]

@[simp] theorem State.movedOn_bufBytes (s : State) (es : List Event) (ws : List WireItem) (cs : List Byte) :
    (s.movedOn es ws cs).bufBytes = s.bufBytes := by
  apply State.bufBytes_congr <;> rfl

/-! ### FATAL -/

/-- FATAL is not cleared, and it is set together with the cause `UnknownSource` alone (R28, R192). -/
def FatalKept (s t : State) : Prop :=
  (s.fatal = true → t.fatal = true) ∧ (s.fatal = false → t.fatal = true → t.result = 3#8 ∧ t.errExpected = 0#16)

theorem FatalKept.of_fatal (h : t.fatal = s.fatal) : FatalKept s t :=
  ⟨fun hs => h.trans hs, fun hs ht => absurd (ht.symm.trans (h.trans hs)) (by decide)⟩

theorem FatalKept.of_status (h : t.status = s.status) : FatalKept s t := .of_fatal (congrArg statusFatal h)

theorem FatalKept.of_start (h : t.status = statusStart s.status) : FatalKept s t :=
  .of_fatal (by rw [State.fatal, h, statusFatal_start, State.fatal])

/-- The end of a command sets FATAL with `UnknownSource` alone. -/
theorem FatalKept.of_end (r : Raised) (hr : r.WellCounted) (hfatal : statusFatal t.status =
    (statusFatal s.status || decide (r.cause = .unknownSource))) (hresult : t.result = r.cause.code)
    (hexpected : t.errExpected = BitVec.ofNat 16 r.expected) : FatalKept s t := by
  refine ⟨fun h => ?_, fun h ht => ?_⟩
  · simp only [State.fatal] at h ⊢
    simp [hfatal, h]
  · simp only [State.fatal] at h ht
    have hcause : r.cause = .unknownSource := by simpa [hfatal, h] using ht
    rw [hresult, hexpected, hcause, hr hcause]
    exact ⟨rfl, rfl⟩

theorem FatalKept.raise (r : Raised) (hr : r.WellCounted) (h : t.status = s.status) : FatalKept s (t.raise r) := by
  refine .of_end r hr (by simp [statusEnd, h]) (by simp) ?_
  unfold State.raise; split <;> rfl

theorem Raised.success_wellCounted : Raised.success.WellCounted := Raised.wellCounted_of_ne (by simp [Raised.success])

theorem Effect.fatalKept (he : Effect script s t) :
    ((∃ es, script = .reset :: es) ∧ t.fatal = false) ∨ FatalKept s t := by
  cases he with
  | reset es hscript => exact .inl ⟨⟨es, hscript⟩, by simp [State.fatal, State.assertReset, State.reset, statusFatal]⟩
  | ignored | flagByte | delivered | acceptedBroadcast | dropped | called | sent | enteredConfirming | iterated =>
    exact .inr (.of_status rfl)
  | hostRead | hostWrite | taken | advanced => exact .inr (.of_status (by simp))
  | handshakeStarted | callStarted => exact .inr (.of_start rfl)
  | ended code r hbusy hr => exact .inr (.of_end r hr (by simp [statusEnd]) rfl rfl)
  | filledBuf | filledTxt | loadedFrame | returnedToIdle | received | callEnded | paired =>
    exact .inr (.of_end _ Raised.success_wellCounted (by simp [statusEnd, State.succeed, State.finish]) rfl rfl)
  | handshakeFailed r hrun hcause hr => exact .inr (.of_end r hr (by simp [statusEnd]) rfl rfl)
  | malformed => exact .inr (.raise _ (Raised.wellCounted_of_ne (by simp)) rfl)
  | callFailed c => exact .inr (.raise _ (Raised.wellCounted_of_ne (by simp)) (by simp))

/-- Settles O57: FATAL changes at the end of a command alone, with the cause recorded there, and at reset. -/
theorem fatalIsSticky : Obligations.FatalIsSticky := by
  intro s t hstep
  obtain ⟨es, ws, cs, he⟩ := step_effect s t hstep
  rcases he.fatalKept with ⟨⟨es', hscript⟩, hclear⟩ | ⟨hkept, hset⟩
  · exact ⟨fun _ hreset => absurd hscript (hreset es'), fun _ ht => absurd (hclear.symm.trans ht) (by decide)⟩
  · exact ⟨fun hs _ => hkept hs, hset⟩

/-! ### The configuration and the templates -/

/-- The configuration registers and the template arrays are as they were. -/
def ConfigKept (s t : State) : Prop :=
  t.cfg = s.cfg ∧ ∀ a, annBase ≤ a → Memory.read t.mem a = Memory.read s.mem a

theorem ConfigKept.of_mem (hcfg : t.cfg = s.cfg) (hmem : t.mem = s.mem) : ConfigKept s t :=
  ⟨hcfg, fun _ _ => by rw [hmem]⟩

/-- A write that ends below the templates leaves them alone. -/
theorem ConfigKept.of_write {base : Nat} {b : List Byte} (hcfg : t.cfg = s.cfg)
    (hmem : t.mem = Memory.write s.mem base b) (hbelow : base + b.length ≤ annBase) : ConfigKept s t :=
  ⟨hcfg, fun a ha => by rw [hmem, Memory.read_write_outside _ _ _ _ (.inr (by omega))]⟩

theorem setBuf_below_templates (b : List Byte) : bufBase + (b.take bufSize).length ≤ annBase := by
  simp [bufBase, annBase, bufSize]; omega

theorem setTxt_below_templates (b : List Byte) : txtBase + (b.take txtSize).length ≤ annBase := by
  simp [txtBase, annBase, txtSize]; omega

theorem setFrame_below_templates (b : List Byte) : payloadBase + (b.take payloadSize).length ≤ annBase := by
  simp [payloadBase, annBase, payloadSize]; omega

theorem Effect.configKept (he : Effect script s t) (hreset : ∀ es, script ≠ .reset :: es)
    (hhost : s.busy = true ∨ ∀ n v es, script = .hostWrite n v :: es → n = 0) : ConfigKept s t := by
  have hcmd : s.busy = false → ∀ n v es, script = .hostWrite n v :: es → n = 0 := fun hbusy =>
    hhost.resolve_left (by simp [hbusy])
  cases he with
  | reset es hscript => exact absurd hscript (hreset es)
  | hostWrite n v es r hscript hn hbusy => exact absurd (hcmd hbusy n v es hscript) hn
  | flagByte n v es o b hscript hn hbusy => exact absurd (hcmd hbusy n v es hscript) hn
  | hostRead | taken | malformed | callFailed | advanced => exact .of_mem (by simp [State.callFailed]) (by simp [State.callFailed])
  | ignored | ended | returnedToIdle | handshakeStarted | callStarted | callEnded | handshakeFailed | called
    | enteredConfirming | iterated => exact .of_mem rfl rfl
  | filledBuf code b | delivered b | received b | sent b => exact .of_write rfl rfl (setBuf_below_templates b)
  | filledTxt code t => exact .of_write rfl rfl (setTxt_below_templates t)
  | loadedFrame _ f | acceptedBroadcast f | dropped f | paired f =>
    exact .of_write rfl rfl (setFrame_below_templates f.payload)

/-- Settles O58: besides a host write to a register and reset, what writes memory at all writes `PAYLOAD`, `BUF` or `TXT`,
which lie below the templates. -/
theorem configurationIsTheHosts : Obligations.ConfigurationIsTheHosts := by
  intro s t hstep hreset hhost
  obtain ⟨es, ws, cs, he⟩ := step_effect s t hstep
  exact he.configKept hreset hhost

/-! ### The radio's identity -/

theorem Effect.radioNetId (he : Effect script s t) :
    t.radioNetId = s.radioNetId ∨ t.seen = s.seen ++ [.setNetworkId t.radioNetId] ∨
      ∃ n es, s.activity = .waiting (.setNetworkId n) ∧ script = .answer s.issued .err :: es := by
  cases he with
  | taken c =>
    cases c with
    | setNetworkId n => exact .inr (.inl (by simp [State.takeCall]))
    | send | receive => exact .inl (by rcases s.disturbRadio_cases with ⟨-, h⟩ | ⟨-, h⟩ <;> simp [State.takeCall, h])
    | sleep => exact .inl rfl
  | callFailed c es hwait hscript =>
    cases c with
    | setNetworkId n => exact .inr (.inr ⟨n, es, hwait, hscript⟩)
    | send | receive | sleep => exact .inl (by simp [State.callFailed, State.radioAfterErr])
  | hostRead | hostWrite | malformed | advanced => exact .inl (by simp)
  | _ => exact .inl rfl

/-- Settles O60: a taken call and an `err` answer are the only effects on the radio. -/
theorem onlySetNetworkIdMovesTheRadio : Obligations.OnlySetNetworkIdMovesTheRadio := by
  intro s t hstep hmoved
  obtain ⟨es, ws, cs, he⟩ := step_effect s t hstep
  exact he.radioNetId.resolve_left hmoved

/-! ### The count of calls -/

/-- A call that is waited for has a new number, or is the one waited for before. -/
def CallsCounted (s t : State) : Prop :=
  s.issued ≤ t.issued ∧
    ∀ c, t.activity = .waiting c → t.issued = s.issued + 1 ∨ (t.issued = s.issued ∧ s.activity = .waiting c)

theorem CallsCounted.of_kept (hissued : t.issued = s.issued) (hactivity : t.activity = s.activity) :
    CallsCounted s t :=
  ⟨hissued.ge, fun _ hc => .inr ⟨hissued, hactivity ▸ hc⟩⟩

theorem CallsCounted.of_noWait (hissued : t.issued = s.issued) (hactivity : ∀ c, t.activity ≠ .waiting c) :
    CallsCounted s t :=
  ⟨hissued.ge, fun c hc => absurd hc (hactivity c)⟩

theorem CallsCounted.of_issue (hissued : t.issued = s.issued + 1) : CallsCounted s t :=
  ⟨by omega, fun _ _ => .inl hissued⟩

theorem Effect.callsCounted (he : Effect script s t) : CallsCounted s t := by
  cases he with
  | ignored | flagByte | enteredConfirming | iterated => exact .of_kept rfl rfl
  | hostRead | hostWrite | taken => exact .of_kept (by simp) (by simp)
  | handshakeStarted | callStarted | called | sent => exact .of_issue rfl
  | malformed | callFailed | advanced => exact .of_noWait (by simp [State.callFailed]) (by simp [State.callFailed])
  | _ => exact .of_noWait rfl (fun _ => nofun)

/-- An answer counts for the last call, while the block waits for it and once the transport has taken it (R134, R213). -/
theorem State.answersLast_iff (s : State) (n : Nat) : s.answersLast n = true ↔ n = s.issued ∧ s.outbound = [] := by
  simp [State.answersLast]

/-- No other answer does anything. -/
theorem State.answered_of_unexpected (s : State) (n : Nat) (a : Answer)
    (h : n ≠ s.issued ∨ (∀ c, s.activity ≠ .waiting c) ∨ s.outbound ≠ []) : s.answered n a = s := by
  have hcontra : ∀ c, s.activity = .waiting c → s.answersLast n = true → False := by
    intro c hwait hlast
    obtain ⟨hn, hout⟩ := (s.answersLast_iff n).1 hlast
    rcases h with h | h | h
    · exact h hn
    · exact h c hwait
    · exact h hout
  rcases s.answered_cases n a with h | ⟨c, hwait, hlast, -⟩ | ⟨_, hwait, hlast, -⟩ | ⟨c, _, hwait, -, hlast, -⟩
  · exact h
  all_goals exact (hcontra _ hwait hlast).elim

/-- R134: a receive awaits its frame once the transport has taken it. -/
theorem State.awaitsFrame_iff (s : State) : s.awaitsFrame = true ↔ s.activity = .waiting .receive ∧ s.outbound = [] := by
  simp [State.awaitsFrame]

theorem State.fetchAnswer_of_unexpected (s : State) (n : Nat) (a : Answer)
    (h : n ≠ s.issued ∨ (∀ c, s.activity ≠ .waiting c) ∨ s.outbound ≠ []) : s.fetchAnswer n a = none := by
  have hcontra : ¬ (s.awaitsFrame = true ∧ n = s.issued) := by
    rw [State.awaitsFrame_iff]
    rintro ⟨⟨hwait, hout⟩, hn⟩
    rcases h with h | h | h
    · exact h hn
    · exact h _ hwait
    · exact h hout
  cases a with
  | err => rfl
  | ok text => simp only [State.fetchAnswer, if_neg hcontra]

/-- Settles O45: such an answer brings up no unit and does nothing; and every effect keeps the count of calls. -/
theorem unexpectedAnswersAreIgnored : Obligations.UnexpectedAnswersAreIgnored := by
  refine ⟨fun s n a es hscript h => ?_, fun s t hstep => ?_⟩
  · have hf : (s.withEvents es).fetchAnswer n a = none := State.fetchAnswer_of_unexpected _ n a h
    have ha : (s.withEvents es).answered n a = s.withEvents es := State.answered_of_unexpected _ n a h
    simp only [step, State.fetch, hscript, hf, State.runEvent, ha]
  · obtain ⟨es, ws, cs, he⟩ := step_effect s t hstep
    exact he.callsCounted

/-! ### The ways on from listening -/

/-- R100: an association broadcast has five payload bytes. -/
theorem length_of_isAssocBroadcast {cfg : Cfg} {f : Frame} (h : isAssocBroadcast cfg f = true) : f.head.length = 11#8 := by
  simp only [isAssocBroadcast, Bool.and_eq_true, decide_eq_true_eq] at h
  obtain ⟨-, hv⟩ := h
  simp only [variantOf] at hv
  split_ifs at hv with hlen
  exact BitVec.eq_of_toNat_eq hlen

/-- R181: four bytes are a network identity. -/
theorem netIdOf_of_four (b : List Byte) (h : b.length = 4) : ∃ n, netIdOf b = some n ∧ netIdBytes n = b := by
  match b, h with
  | [b0, b1, b2, b3], _ => exact ⟨⟨b0, b1, b2, b3⟩, rfl, rfl⟩

/-- The outcome of listening that is not to listen on: the broadcast is decoded and latched (R153, R154). -/
def Latched (b : List Byte) (t : State) : Prop :=
  t.phase = 1#2 ∧
    ∃ f, decodeFrame b = .ok (f, 12) ∧ f.head.fromAddr = 0x80#8 ∧ f.head.length = 11#8 ∧
      t.bcRequestId = f.head.requestId ∧ t.bcMsgType = f.head.msgType ∧ t.bcRoa = f.head.reqOrAnswer ∧
      t.bcFrom = 0x80#8 ∧ [t.bcNetId.b0, t.bcNetId.b1, t.bcNetId.b2, t.bcNetId.b3] = f.payload.drop 1

theorem Latched.of_broadcast (f : Frame) (n : Nat) (b : List Byte) (hf : decodeFrame b = .ok (f, n))
    (hb : isAssocBroadcast s.cfg f = true) :
    Latched b { (s.setFrame f).latchBroadcast f with phase := 1#2, activity := .sequencing } := by
  have hlen := length_of_isAssocBroadcast hb
  have hsrc := fromAddr_of_isAssocBroadcast hb
  obtain ⟨-, -, -, -, hpayload, hn, -⟩ := decodeFrame_ok b f n hf
  simp only [hlen, BitVec.toNat_ofNat, Nat.reducePow, Nat.reduceMod, Nat.reduceSub, Nat.reduceAdd] at hpayload hn
  subst hn
  obtain ⟨nid, hnid, hbytes⟩ := netIdOf_of_four (f.payload.drop 1) (by simp [hpayload])
  refine ⟨rfl, f, hf, hsrc, hlen, rfl, rfl, rfl, hsrc, ?_⟩
  simp only [State.latchBroadcast_bcNetId, hnid, Option.getD_some]
  exact hbytes

/-- A failure of whatever command runs leaves the sequencer where it was, or in `Failed`. -/
theorem State.raise_assoc (s : State) (r : Raised) :
    ((s.raise r).assoc = s.assoc ∧ (s.raise r).phase = s.phase) ∨
      ((s.raise r).assoc = .failed ∧ (s.raise r).phase = 0#2) := by
  rcases s.raise_eq_finish r with ⟨-, h⟩ | ⟨-, h⟩ <;> rw [h]
  · exact .inr ⟨rfl, rfl⟩
  · exact .inl ⟨rfl, rfl⟩

theorem State.callFailed_assoc (s : State) (c : Call) :
    ((s.callFailed c).assoc = s.assoc ∧ (s.callFailed c).phase = s.phase) ∨
      ((s.callFailed c).assoc = .failed ∧ (s.callFailed c).phase = 0#2) := by
  have h := (s.radioAfterErr c).raise_assoc ⟨.transportFailure, 0, 0⟩
  simpa [State.callFailed] using h

theorem Effect.latched_of_listening (he : Effect script s t) (hlisten : s.assoc = .awaitingBroadcast)
    (hphase : s.phase = 0#2) (ht : t.assoc = .awaitingBroadcast) (htp : t.phase ≠ 0#2) : Latched s.bufBytes t := by
  have hkept : t.phase = s.phase → Latched s.bufBytes t := fun h => absurd (h.trans hphase) htp
  cases he with
  | acceptedBroadcast f n hdec hf _ hb => exact .of_broadcast f n _ hf hb
  | dropped f p hdec hp =>
    rcases hp with rfl | ⟨-, h, -⟩
    · exact absurd rfl htp
    · exact absurd hlisten h
  | advanced => simp [State.sequencerAnswered, hlisten] at ht
  | iterated _ hconfirm => exact absurd (hlisten.symm.trans hconfirm) (by decide)
  | malformed =>
    rcases s.raise_assoc ⟨.malformedHex, 0, 0⟩ with ⟨-, h⟩ | ⟨h, -⟩
    · exact hkept h
    · exact absurd (h.symm.trans ht) (by decide)
  | callFailed c =>
    rcases s.callFailed_assoc c with ⟨-, h⟩ | ⟨h, -⟩
    · exact hkept h
    · exact absurd (h.symm.trans ht) (by decide)
  | hostRead | hostWrite | taken => exact hkept (by simp)
  | reset | returnedToIdle | handshakeFailed | enteredConfirming | paired => cases ht
  | _ => exact hkept rfl

/-- A handshake that fails records a cause and the state it was in (R162, R203). -/
theorem State.failHandshake_records (s : State) (r : Raised) (hcause : r.cause ≠ .ok) :
    (s.failHandshake r).assoc = .failed ∧ (s.failHandshake r).result ≠ 0#8 ∧
      (s.failHandshake r).errState = assocCode s.assoc := by
  refine ⟨rfl, ?_, rfl⟩
  have hcode := causeCode_ne_zero r.cause
  simpa [hcause] using hcode

theorem State.raise_of_handshake (s : State) (r : Raised) (hh : s.handshake = true) : s.raise r = s.failHandshake r := by
  rw [State.raise, if_pos hh]

/-- While a handshake is under way the block is BUSY, and what it waits for is the handshake's call (R28, R166). -/
theorem State.Inv.busy_of_underWay (h : s.Inv) (hrest : atRest s.assoc = false) : s.busy = true := by
  rw [← Bool.not_eq_false]
  intro hbusy
  simp [(h.idle_of_not_busy hbusy).2] at hrest

theorem State.Inv.handshake_of_underWay (h : s.Inv) (hrest : atRest s.assoc = false) {c : Call}
    (hwait : s.activity = .waiting c) : s.handshake = true := by
  rw [← Bool.not_eq_false]
  intro hh
  simp [(h.of_waiting_command hwait hh).2.1] at hrest

/-- The ways on from listening under the invariant: to listen on, to fail, and reset. -/
theorem Effect.listening (he : Effect script s t) (h : s.Inv) (hlisten : s.assoc = .awaitingBroadcast)
    (hphase : s.phase = 0#2) :
    (t.assoc = .awaitingBroadcast ∧ (t.phase = 0#2 ∨ t.phase = 1#2)) ∨
    (t.assoc = .failed ∧ t.result ≠ 0#8 ∧ t.errState = 1#3) ∨
    (t.assoc = .idle ∧ ∃ es, script = .reset :: es) := by
  have hrest : atRest s.assoc = false := by rw [hlisten]; rfl
  have hcode : assocCode s.assoc = 1#3 := by rw [hlisten]; rfl
  have hbusy := h.busy_of_underWay hrest
  cases he with
  | reset es hscript => exact .inr (.inr ⟨rfl, es, hscript⟩)
  | handshakeFailed r hrun hcause => exact .inr (.inl (hcode ▸ s.failHandshake_records r hcause))
  | malformed hwait =>
    rw [s.raise_of_handshake _ (h.handshake_of_underWay hrest hwait)]
    exact .inr (.inl (hcode ▸ s.failHandshake_records _ (by simp)))
  | callFailed c es hwait =>
    have hh : (s.radioAfterErr c).handshake = true := by
      simpa [State.handshake] using h.handshake_of_underWay hrest hwait
    rw [State.callFailed, State.raise_of_handshake _ _ hh]
    have := (s.radioAfterErr c).failHandshake_records ⟨.transportFailure, 0, 0⟩ (by simp)
    rw [State.radioAfterErr_assoc, hcode] at this
    exact .inr (.inl this)
  | received b hwait hh | callEnded c hwait hh =>
    simp [h.handshake_of_underWay hrest hwait] at hh
  | advanced c hwait hc hh =>
    have hdue := (h.of_waiting_handshake hwait hh).2
    simp [State.callDue, hlisten, hphase, hc] at hdue
  | paired f n hdec hf hconfirm | iterated hseq hconfirm => exact absurd (hlisten.symm.trans hconfirm) (by decide)
  | enteredConfirming hseq hinit => exact absurd (hlisten.symm.trans hinit) (by decide)
  | acceptedBroadcast => exact .inl ⟨hlisten, .inr rfl⟩
  | dropped f p hdec hp =>
    rcases hp with rfl | ⟨-, hne, -⟩
    · exact .inl ⟨hlisten, .inl rfl⟩
    · exact absurd hlisten hne
  | hostWrite _ _ _ _ _ _ hb | flagByte _ _ _ _ _ _ _ hb => simp [hbusy] at hb
  | ended _ _ hb | filledBuf _ _ hb | filledTxt _ _ hb | loadedFrame _ _ hb | returnedToIdle _ hb
  | handshakeStarted hb | callStarted _ _ hb => simp [hbusy] at hb
  | hostRead | taken => exact .inl ⟨by simpa using hlisten, .inl (by simpa using hphase)⟩
  | ignored | delivered | called | sent => exact .inl ⟨hlisten, .inl hphase⟩

/-- Settles O51: of the effects on a listening sequencer, the accepted broadcast alone leads to another phase. -/
theorem onlyABroadcastReachesTheAnnounce : Obligations.OnlyABroadcastReachesTheAnnounce := by
  intro s t hstep hlisten hphase
  obtain ⟨es, ws, cs, he⟩ := step_effect s t hstep
  refine ⟨fun ht htp => ?_, fun h => he.listening (h.movedOn es ws cs) hlisten hphase⟩
  have hlatched := he.latched_of_listening hlisten hphase ht htp
  rwa [State.movedOn_bufBytes] at hlatched

/-! ### The ways into `Paired`, and out of `Paired` and `Failed` -/

/-- No `ok` answer leads to `Paired` (R166). -/
theorem State.assoc_of_sequencerAnswered_paired (s : State) (h : s.sequencerAnswered.assoc = .paired) :
    s.assoc = .paired := by
  unfold State.sequencerAnswered at h
  split at h <;> simp_all

/-- R160: what the step that enters `Paired` has decoded. -/
theorem Effect.of_paired (he : Effect script s t) (ht : t.assoc = .paired) (hs : s.assoc ≠ .paired) :
    s.assoc = .confirming ∧ t.result = 0#8 ∧
      ∃ f n, decodeFrame s.bufBytes = .ok (f, n) ∧ f.head.fromAddr = 0x80#8 ∧ t.fr = f.head := by
  cases he with
  | paired f n hdec hf hconfirm hb => exact ⟨hconfirm, rfl, f, n, hf, (isBoiler_iff f).1 hb, rfl⟩
  | reset | returnedToIdle | handshakeFailed | enteredConfirming => cases ht
  | malformed =>
    rcases s.raise_assoc ⟨.malformedHex, 0, 0⟩ with ⟨h, -⟩ | ⟨h, -⟩ <;> rw [h] at ht
    · exact absurd ht hs
    · cases ht
  | callFailed c =>
    rcases s.callFailed_assoc c with ⟨h, -⟩ | ⟨h, -⟩ <;> rw [h] at ht
    · exact absurd ht hs
    · cases ht
  | advanced => exact absurd (s.assoc_of_sequencerAnswered_paired ht) hs
  | hostRead | hostWrite | taken => exact absurd (by simpa using ht) hs
  | _ => exact absurd ht hs

/-- A handshake that is over has no call outstanding, no frame to decode and no act of its own (R166). -/
theorem State.Inv.of_handshakeOver (h : s.Inv) (hover : s.assoc = .paired ∨ s.assoc = .failed) :
    s.activity ≠ .sequencing ∧ s.activity ≠ .decoding ∧ ∀ c, s.activity = .waiting c → s.handshake = false := by
  have hrest : atRest s.assoc = true := by rcases hover with ha | ha <;> rw [ha] <;> rfl
  refine ⟨fun hseq => ?_, fun hdec => ?_, fun c hwait => ?_⟩
  · simp [(h.of_sequencing hseq).2] at hrest
  · rcases (h.of_decoding hdec).2 with ⟨ha, -⟩ | ⟨ha, -⟩ <;> simp [ha, atRest] at hrest
  · rw [← Bool.not_eq_true]
    intro hh
    have hdue := (h.of_waiting_handshake hwait hh).2
    rcases hover with ha | ha <;> simp [State.callDue, ha] at hdue

/-- R164: from there the sequencer stays where it is, or returns to `Idle`. -/
theorem Effect.assoc_of_handshakeOver (he : Effect script s t) (h : s.Inv)
    (hover : s.assoc = .paired ∨ s.assoc = .failed) : t.assoc = s.assoc ∨ t.assoc = .idle := by
  obtain ⟨hnoSeq, hnoDec, hnoHandshake⟩ := h.of_handshakeOver hover
  cases he with
  | reset | returnedToIdle => exact .inr rfl
  | delivered b hwait hh | advanced c hwait hc hh => simp [hnoHandshake _ hwait] at hh
  | malformed hwait =>
    have hh := hnoHandshake _ hwait
    exact .inl (by simp [State.raise, hh])
  | callFailed c es hwait =>
    have hh : (s.radioAfterErr c).handshake = false := by simpa [State.handshake] using hnoHandshake c hwait
    exact .inl (by simp [State.callFailed, State.raise, hh])
  | acceptedBroadcast f n hdec | dropped f p hdec | paired f n hdec => exact absurd hdec hnoDec
  | handshakeFailed r hrun => exact (hrun.elim hnoDec hnoSeq).elim
  | called c hseq | sent b hseq | enteredConfirming hseq | iterated hseq => exact absurd hseq hnoSeq
  | hostRead | hostWrite | taken => exact .inl (by simp)
  | _ => exact .inl rfl

/-- Settles O52: one effect leads to `Paired`; and a handshake that is over has none of the effects that lead elsewhere than
back to `Idle`. -/
theorem pairedOnlyByABoilerFrame : Obligations.PairedOnlyByABoilerFrame := by
  intro s t hstep
  obtain ⟨es, ws, cs, he⟩ := step_effect s t hstep
  refine ⟨fun ht hs => ?_, fun h hover => he.assoc_of_handshakeOver (h.movedOn es ws cs) hover⟩
  have hpaired := he.of_paired ht hs
  rwa [State.movedOn_bufBytes] at hpaired

end Sys2Proof.Machine
end

section
/-! PROOFS. The radio's identity is hidden (R44): hiding it commutes with every operation of the block, so a step cannot
depend on it. -/

namespace Sys2Proof.Machine

variable (s : State)

/-! ### What the block reads of a state -/

@[simp] theorem State.hideRadio_bytesAt (base n : Nat) : s.hideRadio.bytesAt base n = s.bytesAt base n :=
  State.bytesAt_congr s.hideRadio s rfl rfl base n

@[simp] theorem State.hideRadio_bufBytes : s.hideRadio.bufBytes = s.bufBytes := s.hideRadio_bytesAt _ _

@[simp] theorem State.hideRadio_txtBytes : s.hideRadio.txtBytes = s.txtBytes := s.hideRadio_bytesAt _ _

@[simp] theorem State.hideRadio_payloadBytes : s.hideRadio.payloadBytes = s.payloadBytes := s.hideRadio_bytesAt _ _

@[simp] theorem State.hideRadio_annBytes : s.hideRadio.annBytes = s.annBytes := s.hideRadio_bytesAt _ _

@[simp] theorem State.hideRadio_reportPayload : s.hideRadio.reportPayload = s.reportPayload := by
  rw [State.reportPayload, State.tempBytes, State.hideRadio_bytesAt]; rfl

theorem State.hideRadio_assoc : s.hideRadio.assoc = s.assoc := rfl

theorem State.hideRadio_flagOffset : s.hideRadio.flagOffset = s.flagOffset := rfl

theorem State.hideRadio_reading (n : Nat) : s.hideRadio.reading n = s.reading n := rfl

/-! ### The operations commute with hiding -/

theorem State.hideRadio_raise (r : Raised) : s.hideRadio.raise r = (s.raise r).hideRadio := by
  rw [State.raise, State.raise, apply_ite State.hideRadio]; rfl

theorem State.hideRadio_sendFrame (m : Metadata) (p : List Byte) :
    s.hideRadio.sendFrame m p = (s.sendFrame m p).hideRadio := by
  unfold State.sendFrame
  split <;> rfl

theorem State.hideRadio_startIteration : s.hideRadio.startIteration = s.startIteration.hideRadio := by
  rw [State.startIteration, State.startIteration, apply_ite State.hideRadio]; rfl

theorem State.hideRadio_sequencerAct : s.hideRadio.sequencerAct = s.sequencerAct.map State.hideRadio := by
  unfold State.sequencerAct
  rw [State.hideRadio_annBytes, State.hideRadio_reportPayload, State.hideRadio_startIteration,
    State.hideRadio_sendFrame, State.hideRadio_sendFrame, State.hideRadio_sendFrame, State.hideRadio_assoc]
  cases s.assoc with
  | awaitingBroadcast | confirming => simp only [apply_ite (Option.map State.hideRadio)]; rfl
  | _ => rfl

theorem State.hideRadio_sequencerAnswered : s.hideRadio.sequencerAnswered = s.sequencerAnswered.hideRadio := by
  unfold State.sequencerAnswered
  rw [State.hideRadio_assoc]
  generalize s.assoc = a
  cases a <;> rfl

theorem State.hideRadio_frameReceived (f : Frame) : s.hideRadio.frameReceived f = (s.frameReceived f).hideRadio := by
  unfold State.frameReceived
  rw [State.hideRadio_assoc]
  generalize s.assoc = a
  cases a with
  | awaitingBroadcast | confirming => simp only [apply_ite State.hideRadio]; rfl
  | _ => rfl

theorem State.hideRadio_callSucceeded : s.hideRadio.callSucceeded = s.callSucceeded.hideRadio := by
  rw [State.callSucceeded, State.callSucceeded, State.hideRadio_sequencerAnswered, apply_ite State.hideRadio]; rfl

theorem State.hideRadio_frameDecoded (f : Frame) : s.hideRadio.frameDecoded f = (s.frameDecoded f).hideRadio := by
  have h : (s.hideRadio.setFrame f).frameReceived f = ((s.setFrame f).frameReceived f).hideRadio :=
    (s.setFrame f).hideRadio_frameReceived f
  rw [State.frameDecoded, State.frameDecoded, h, apply_ite State.hideRadio]; rfl

theorem State.hideRadio_frameRejected (r : Raised) : s.hideRadio.frameRejected r = (s.frameRejected r).hideRadio := by
  rw [State.frameRejected, State.frameRejected, apply_ite State.hideRadio]; rfl

theorem State.hideRadio_runCodec (b : List Byte) : s.hideRadio.runCodec b = (s.runCodec b).hideRadio := by
  unfold State.runCodec
  split
  · exact s.hideRadio_frameDecoded _
  · exact s.hideRadio_frameRejected _

theorem State.hideRadio_deliver (b : List Byte) : s.hideRadio.deliver b = (s.deliver b).hideRadio := by
  rw [State.deliver, State.deliver, apply_ite State.hideRadio, apply_ite State.hideRadio]; rfl

theorem State.hideRadio_deliverMalformed : s.hideRadio.deliverMalformed = s.deliverMalformed.hideRadio := by
  rw [State.deliverMalformed, State.deliverMalformed, State.hideRadio_raise, apply_ite State.hideRadio]; rfl

theorem State.hideRadio_arrive (chars : List Byte) : s.hideRadio.arrive chars = (s.arrive chars).hideRadio := by
  rw [State.arrive_eq, State.arrive_eq]; rfl

theorem State.hideRadio_writeReg (r : Reg) (v : PortWord) : s.hideRadio.writeReg r v = (s.writeReg r v).hideRadio := by
  cases r with
  | bufLen | txtLen | element => simp only [State.writeReg, apply_ite State.hideRadio]; rfl
  | _ => rfl

theorem State.hideRadio_hostRead (n : Nat) : s.hideRadio.hostRead n = (s.hostRead n).hideRadio := by
  unfold State.hostRead
  rw [State.hideRadio_reading]
  split <;> rfl

/-! ### The two operations on the radio: what they do to the identity does not depend on it -/

theorem State.hideRadio_takeCall (c : Call) : (s.hideRadio.takeCall c).hideRadio = (s.takeCall c).hideRadio := by
  have h : s.hideRadio.disturbRadio = s.disturbRadio.hideRadio := by
    rw [State.disturbRadio, State.disturbRadio, apply_ite State.hideRadio]; rfl
  cases c <;> simp only [State.takeCall, h] <;> rfl

theorem State.hideRadio_callFailed (c : Call) : (s.hideRadio.callFailed c).hideRadio = (s.callFailed c).hideRadio := by
  have h : (s.hideRadio.radioAfterErr c).hideRadio = (s.radioAfterErr c).hideRadio := by cases c <;> rfl
  rw [State.callFailed, State.callFailed, ← State.hideRadio_raise, ← State.hideRadio_raise, h]

theorem State.hideRadio_answered (n : Nat) (a : Answer) :
    (s.hideRadio.answered n a).hideRadio = (s.answered n a).hideRadio := by
  unfold State.answered
  rw [show s.hideRadio.activity = s.activity from rfl, show s.hideRadio.answersLast n = s.answersLast n from rfl]
  cases s.activity with
  | waiting c =>
    cases s.answersLast n with
    | false => rfl
    | true =>
      cases a with
      | err => exact s.hideRadio_callFailed c
      | ok text =>
        simp only [s.hideRadio_arrive, s.hideRadio_callSucceeded, if_true, apply_ite State.hideRadio]
        rfl
  | idle | sequencing | decoding => rfl

/-! ### Outcomes -/

/-- An outcome with the radio's identity hidden. -/
def hideOut : Out → Out
  | .next t => .next t.hideRadio
  | .fault e => .fault e
  | .refused e => .refused e

theorem sameButRadio_of_hideOut {o p : Out} (h : hideOut o = hideOut p) : SameButRadio o p := by
  cases o <;> cases p <;> simp_all [hideOut, SameButRadio]

theorem hideOut_next {u t : State} (h : u = t.hideRadio) : hideOut (.next u) = hideOut (.next t) := by
  rw [h]; rfl

theorem hideOut_exec (i : Instr) : hideOut (exec i s.hideRadio) = hideOut (exec i s) := by
  cases i with
  | hostIllegal | nop | assocReset | tSleep | tReceive => rfl
  | boilerAssocBroadcast | boilerSetTempResponse | boilerUnknown | probeInit | probeAssocAnnounce | probeTempReport
  | probeUnknown | satelliteTempReport | satelliteUnknown =>
    exact hideOut_next (s.hideRadio_frameDecoded _)
  | frameIllegalSource | frameIllegalLength | frameHeader =>
    exact hideOut_next (s.hideRadio_frameRejected _)
  | serialNid | serialLst | serialCmd | serialSlp | brokerListen | brokerSleep | brokerSetNetworkId | brokerSend =>
    exact congrArg Host.Outcome.next (s.hideRadio_takeCall _)
  | flags f =>
    simp only [exec, execFlags, State.hideRadio_flagOffset]
    split <;> rfl
  | serialIncoming text =>
    simp only [exec, execSerialIncoming]
    split
    · exact hideOut_next (s.hideRadio_deliver _)
    · rfl
  | brokerIncoming text =>
    simp only [exec, execBrokerIncoming]
    split
    · exact hideOut_next (s.hideRadio_deliver _)
    · exact hideOut_next s.hideRadio_deliverMalformed
  | hexdec =>
    simp only [exec, execHexdec, State.hideRadio_txtBytes]
    split <;> rfl
  | hexenc =>
    simp only [exec, execHexenc, State.hideRadio_bufBytes]; rfl
  | decode =>
    simp only [exec, execDecode, State.hideRadio_bufBytes]
    exact hideOut_next ((s.startCommand 0x03#8).hideRadio_runCodec _)
  | encode =>
    have h : encodeFrame s.hideRadio.fr s.payloadBytes = encodeFrame s.fr s.payloadBytes := rfl
    simp only [exec, execEncode, State.hideRadio_payloadBytes, h]
    split <;> rfl
  | assocStart =>
    refine hideOut_next ?_
    simp only [apply_ite State.hideRadio]
    rfl
  | tSetNid =>
    simp only [exec, execTSetNid, State.hideRadio_bufBytes]
    split <;> rfl
  | tSend =>
    refine hideOut_next ?_
    rw [State.hideRadio_bufBytes, apply_ite State.hideRadio]
    rfl

/-! ### The step -/

/-- A fetched unit, with the radio's identity hidden in the state it is executed in. -/
def hideFetched (p : Option (Encoded × State)) : Option (Encoded × State) := p.map fun q => (q.1, q.2.hideRadio)

theorem State.hideRadio_lineDue :
    s.hideRadio.lineDue = s.lineDue.map fun p => (p.1, p.2.hideRadio) := by
  rw [State.lineDue, State.lineDue, apply_ite (Option.map _), Option.map_map]; rfl

theorem State.hideRadio_fetchLine : s.hideRadio.fetchLine = hideFetched s.fetchLine := by
  simp only [State.fetchLine, hideFetched, State.hideRadio_lineDue, Option.map_map]; rfl

theorem State.hideRadio_fetchTurn : s.hideRadio.fetchTurn = hideFetched s.fetchTurn := by
  unfold State.fetchTurn
  rw [State.hideRadio_bufBytes, State.hideRadio_fetchLine, show s.hideRadio.outbound = s.outbound from rfl]
  cases s.outbound with
  | nil => simp only [apply_ite hideFetched]; rfl
  | cons => rfl

theorem State.hideRadio_fetchWrite (n : Nat) (v : PortWord) :
    s.hideRadio.fetchWrite n v = hideFetched (s.fetchWrite n v) := by
  unfold State.fetchWrite
  simp only [apply_ite hideFetched, State.hideRadio_flagOffset]; rfl

theorem State.hideRadio_fetchAnswer (n : Nat) (a : Answer) :
    s.hideRadio.fetchAnswer n a = hideFetched (s.fetchAnswer n a) := by
  cases a with
  | err => rfl
  | ok text =>
    simp only [State.fetchAnswer, State.hideRadio_arrive, State.hideRadio_fetchLine, apply_ite hideFetched]
    rw [show s.hideRadio.link = s.link from rfl]
    cases s.link <;> rfl

theorem State.hideRadio_fetch : s.hideRadio.fetch = hideFetched s.fetch := by
  unfold State.fetch
  rw [show s.hideRadio.events = s.events from rfl]
  match s.events with
  | [] => exact s.hideRadio_fetchTurn
  | .turn :: es => exact (s.withEvents es).hideRadio_fetchTurn
  | .hostWrite n v :: es => exact (s.withEvents es).hideRadio_fetchWrite n v
  | .hostRead _ :: _ => rfl
  | .answer n a :: es => exact (s.withEvents es).hideRadio_fetchAnswer n a
  | .reset :: _ => rfl

theorem hideOut_ownTurn : hideOut s.hideRadio.ownTurn = hideOut s.ownTurn := by
  unfold State.ownTurn
  rw [State.hideRadio_sequencerAct, show s.hideRadio.activity = s.activity from rfl]
  cases s.activity with
  | sequencing => cases s.sequencerAct <;> rfl
  | _ => rfl

theorem hideOut_givenTurn : hideOut s.hideRadio.givenTurn = hideOut s.givenTurn := by
  unfold State.givenTurn
  rw [show s.hideRadio.activity = s.activity from rfl]
  cases s.activity with
  | sequencing => exact hideOut_ownTurn s
  | _ => rfl

theorem State.hideRadio_hostWrite (n : Nat) (v : PortWord) : s.hideRadio.hostWrite n v = (s.hostWrite n v).hideRadio := by
  unfold State.hostWrite
  rw [apply_ite State.hideRadio, show s.hideRadio.busy = s.busy from rfl]
  cases regOf n with
  | none => rfl
  | some r => simp only [State.hideRadio_writeReg]

theorem hideOut_runEvent : hideOut s.hideRadio.runEvent = hideOut s.runEvent := by
  unfold State.runEvent
  rw [show s.hideRadio.events = s.events from rfl]
  match s.events with
  | [] => exact hideOut_ownTurn s
  | .turn :: es => exact hideOut_givenTurn (s.withEvents es)
  | .hostWrite n v :: es => exact hideOut_next ((s.withEvents es).hideRadio_hostWrite n v)
  | .hostRead n :: es => exact hideOut_next ((s.withEvents es).hideRadio_hostRead n)
  | .answer n a :: es => exact congrArg Host.Outcome.next ((s.withEvents es).hideRadio_answered n a)
  | .reset :: es => rfl

/-- A step does not depend on the radio's identity. -/
theorem hideOut_step : hideOut (step s.hideRadio) = hideOut (step s) := by
  unfold step
  rw [State.hideRadio_fetch]
  cases s.fetch with
  | none => exact hideOut_runEvent s
  | some p =>
    obtain ⟨u, s1⟩ := p
    simp only [hideFetched, Option.map_some]
    rw [show s1.hideRadio.cfg = s1.cfg from rfl]
    cases Sys2Proof.decode s1.cfg u with
    | ok i => exact hideOut_exec s1 i
    | error e => cases e <;> rfl

/-- Settles O59: both steps are that of the one state in which the identity is hidden. -/
theorem radioIdentityIsHidden : Obligations.RadioIdentityIsHidden := by
  intro s t h
  apply sameButRadio_of_hideOut
  rw [← hideOut_step s, ← hideOut_step t, h]

end Sys2Proof.Machine
end

section
/-! PROOFS. The statements of 40_hex_codec.md, 42_frame_dispatch.md and of the frame rows. -/

namespace Sys2Proof.Machine

/-! ### Hex text -/

/-- R87: the ranges of the hex digits. -/
theorem hexVal_ne_none (c : Byte) (h : hexVal c ≠ none) :
    (0x30 ≤ c.toNat ∧ c.toNat ≤ 0x39) ∨ (0x61 ≤ c.toNat ∧ c.toNat ≤ 0x66) ∨ (0x41 ≤ c.toNat ∧ c.toNat ≤ 0x46) := by
  unfold hexVal at h
  split_ifs at h with hdigit hlower hupper
  · exact .inl hdigit
  · exact .inr (.inl hlower)
  · exact .inr (.inr hupper)
  · exact absurd rfl h

theorem hexVal_digit : ∀ n, n < 10 → hexVal (BitVec.ofNat 8 (0x30 + n)) = some n := by decide

theorem hexVal_letter : ∀ n, n < 6 →
    hexVal (BitVec.ofNat 8 (0x61 + n)) = some (10 + n) ∧ hexVal (BitVec.ofNat 8 (0x41 + n)) = some (10 + n) := by decide

/-- R88: what the search for a bad character finds is the first one, counted from the start index. -/
theorem firstBadChar_eq_some (t : List Byte) (i k : Nat) (hi : i < t.length) (hbad : hexVal t[i] = none)
    (hfirst : ∀ j (hj : j < i), hexVal (t[j]'(by omega)) ≠ none) : firstBadChar t k = some (k + i) := by
  induction t generalizing i k with
  | nil => simp at hi
  | cons c t ih =>
    cases i with
    | zero => rw [firstBadChar, if_pos (by simpa using hbad), Nat.add_zero]
    | succ i =>
      have hc : hexVal c ≠ none := hfirst 0 (by omega)
      have hrest := ih i (k + 1) (by simpa using hi) hbad (fun j hj => hfirst (j + 1) (by omega))
      rw [firstBadChar, if_neg (by simpa using hc), hrest, Nat.add_assoc, Nat.add_comm 1]

theorem firstBadChar_eq_none (t : List Byte) (k : Nat) (h : ∀ c ∈ t, hexVal c ≠ none) : firstBadChar t k = none := by
  induction t generalizing k with
  | nil => rfl
  | cons c t ih =>
    have hc : hexVal c ≠ none := h c List.mem_cons_self
    rw [firstBadChar, if_neg (by simpa using hc)]
    exact ih _ fun d hd => h d (List.mem_cons_of_mem c hd)

theorem firstBadChar_none_mem (t : List Byte) (k : Nat) (h : firstBadChar t k = none) : ∀ c ∈ t, hexVal c ≠ none := by
  induction t generalizing k with
  | nil => simp
  | cons c t ih =>
    rw [firstBadChar] at h
    split_ifs at h with hc
    intro d hd
    rcases List.mem_cons.1 hd with rfl | hd
    · simpa using hc
    · exact ih _ h d hd

/-- R88: each byte of a text of digits has the value of its two digits. -/
theorem hexPairs_getElem? (t : List Byte) (i v w : Nat) (hv : (t[2 * i]?).bind hexVal = some v)
    (hw : (t[2 * i + 1]?).bind hexVal = some w) : (hexPairs t)[i]? = some (BitVec.ofNat 8 (v * 16 + w)) := by
  fun_induction hexPairs t generalizing i with
  | case1 c0 c1 t ih =>
    cases i with
    | zero =>
      have hv' : hexVal c0 = some v := by simpa using hv
      have hw' : hexVal c1 = some w := by simpa using hw
      simp [hv', hw']
    | succ i =>
      rw [List.getElem?_cons_succ]
      exact ih i (by simpa [Nat.mul_add] using hv) (by simpa [Nat.mul_add] using hw)
  | case2 t h =>
    match t, h with
    | [], _ => simp at hv
    | [a], _ => simp at hw
    | a :: b :: t, h => exact absurd rfl (h a b t)

/-- Settles O4: the digits by their codes; the length is judged before the characters, and the first bad character stops the
search. -/
theorem hexDecodeOutcome : Obligations.HexDecodeOutcome := by
  refine ⟨hexVal_digit, hexVal_letter, hexVal_ne_none, fun t => ⟨fun hodd => ?_, fun heven i hi hbad hfirst => ?_,
    fun heven hdigits => ?_⟩⟩
  · rw [hexDecode, if_pos (by omega)]
  · rw [hexDecode, if_neg (by omega), firstBadChar_eq_some t i 0 hi hbad hfirst, Nat.zero_add]
  · refine ⟨hexPairs t, ?_, ?_, hexPairs_getElem? t⟩
    · rw [hexDecode, if_neg (by omega), firstBadChar_eq_none t 0 hdigits]
    · rw [hexPairs_length]; omega

/-- R89: the two characters of each byte stand side by side. -/
theorem hexEncode_getElem? (u : Bool) (b : List Byte) (i : Nat) (hi : i < b.length) :
    (hexEncode u b)[2 * i]? = some (hexChar (b[i].toNat / 16) u) ∧
      (hexEncode u b)[2 * i + 1]? = some (hexChar (b[i].toNat % 16) u) := by
  induction b generalizing i with
  | nil => simp at hi
  | cons x xs ih =>
    cases i with
    | zero => simp [hexEncode]
    | succ i => simpa [hexEncode, Nat.mul_add] using ih i (by simpa using hi)

theorem hexChar_eq (n : Nat) (u : Bool) :
    hexChar n u = BitVec.ofNat 8 (if n ≤ 9 then 0x30 + n else if u then 0x41 + (n - 10) else 0x61 + (n - 10)) := by
  unfold hexChar; split_ifs <;> rfl

/-- Settles O5: by induction on the bytes, each of which puts down two characters. -/
theorem hexEncodeCharacters : Obligations.HexEncodeCharacters := by
  intro upper b
  refine ⟨hexEncode_length upper b, fun i hi => ?_⟩
  obtain ⟨hhigh, hlow⟩ := hexEncode_getElem? upper b i hi
  exact ⟨hhigh, hlow, fun n _ => hexChar_eq n upper⟩

/-- R90: the value of a digit is a nibble, and its character is the digit in the selected case. -/
theorem hexVal_getD : ∀ (c : Byte) (u : Bool), hexVal c ≠ none →
    (hexVal c).getD 0 < 16 ∧ hexChar ((hexVal c).getD 0) u = inCase u c := by decide

theorem hexEncode_hexPairs (u : Bool) (t : List Byte) (heven : t.length % 2 = 0) (h : ∀ c ∈ t, hexVal c ≠ none) :
    hexEncode u (hexPairs t) = t.map (inCase u) := by
  fun_induction hexPairs t with
  | case1 c0 c1 t ih =>
    obtain ⟨hlt0, hchar0⟩ := hexVal_getD c0 u (h c0 (by simp))
    obtain ⟨hlt1, hchar1⟩ := hexVal_getD c1 u (h c1 (by simp))
    have hbyte : (BitVec.ofNat 8 ((hexVal c0).getD 0 * 16 + (hexVal c1).getD 0)).toNat =
        (hexVal c0).getD 0 * 16 + (hexVal c1).getD 0 := by
      rw [BitVec.toNat_ofNat]; omega
    have hrest := ih (by rw [List.length_cons, List.length_cons] at heven; omega) fun c hc => h c (by simp [hc])
    rw [hexEncode, hbyte, hrest, show ((hexVal c0).getD 0 * 16 + (hexVal c1).getD 0) / 16 = (hexVal c0).getD 0 by omega,
      show ((hexVal c0).getD 0 * 16 + (hexVal c1).getD 0) % 16 = (hexVal c1).getD 0 by omega, hchar0, hchar1]
    rfl
  | case2 t ht =>
    match t, ht with
    | [], _ => rfl
    | [a], _ => simp at heven
    | a :: b :: t, ht => exact absurd rfl (ht a b t)

/-- What a text that decodes is. -/
theorem hexDecode_ok (t b : List Byte) (h : hexDecode t = .ok b) :
    t.length % 2 = 0 ∧ (∀ c ∈ t, hexVal c ≠ none) ∧ b = hexPairs t := by
  unfold hexDecode at h
  split_ifs at h with hodd
  split at h
  · cases h
  · rename_i hnone
    cases h
    exact ⟨by omega, firstBadChar_none_mem t 0 hnone, rfl⟩

/-- Settles O6: pair by pair, the nibbles of the decoded byte are the values of the two digits. -/
theorem hexTextRoundTrip : Obligations.HexTextRoundTrip := by
  intro upper t b h
  obtain ⟨heven, hdigits, rfl⟩ := hexDecode_ok t b h
  exact hexEncode_hexPairs upper t heven hdigits

/-! ### Frames -/

/-- Settles O9: past the checks of both directions, a frame's bytes are its header followed by its payload. -/
theorem frameRoundTrip : Obligations.FrameRoundTrip := by
  refine ⟨fun f hsix hpayload hsrc => ?_, encodeFrame_of_decodeFrame⟩
  have hlen : f.head.length.toNat = 6 + f.payload.length := by omega
  have henc := encodeFrame_of_checks f.head f.payload hsrc hlen
  refine ⟨_, henc, encodeFrame_length _ _ _ henc, ?_⟩
  rw [decodeFrame_of_checks f.head f.payload (by omega) hsrc (by omega), List.take_of_length_le (by omega)]

/-! ### The frame rows outside a handshake -/

/-- Settles O32: each row ends in the codec's reaction to its frame, for the host. -/
theorem frameRowsLoadTheFrame : Obligations.FrameRowsLoadTheFrame := by
  intro s a h p hdec hp
  refine onFrameRows_of_frameDecoded s fun src i hexec => ?_
  have hlen := frameOf_length_toNat src h hp
  rw [hexec]
  exact s.frameDecoded_host _ hdec (by omega) (by omega)

/-- Settles O36: outside decoding a rejected frame is an end of the command with its cause. -/
theorem illegalFramesEndTheCommand : Obligations.IllegalFramesEndTheCommand := by
  intro s hdec
  refine ⟨fun m tail => ?_, fun b hb => ?_, fun l rest hrest => ?_, fun m part => ?_⟩
  · rw [exec, execFrameIllegalSource, State.frameRejected_eq, if_neg hdec]
    simp [Cause.code]
  · rw [exec_frameIllegalLength_of_short s b hb, State.frameRejected_eq, if_neg hdec]
    simp [Cause.code]
  · rw [exec_frameIllegalLength_of_header s l rest hrest, State.frameRejected_eq, if_neg hdec]
    simp [Cause.code]
  · rw [exec, execFrameHeader, State.frameRejected_eq, if_neg hdec]
    simp [Cause.code]

/-! ### The frame rows in a handshake -/

/-- The code of the handshake's command in `CMD` (R178). -/
theorem State.handshake_iff (s : State) : s.handshake = true ↔ s.cmd = 0x05#8 := by
  rw [State.handshake, decide_eq_true_iff, codeAssocStart]

/-- Settles O37: for the sequencer a rejected frame, or a malformed answer, fails the handshake with its cause. -/
theorem decodeFailureFailsTheHandshake : Obligations.DecodeFailureFailsTheHandshake := by
  intro s
  refine ⟨fun hdec => ⟨fun m tail => ?_, fun b hb => ?_, fun l rest hrest => ?_, fun m part => ?_⟩,
    fun hawaits hcmd text r hhex => ?_⟩
  · rw [exec, execFrameIllegalSource, State.frameRejected_eq, if_pos hdec]
    simp [Cause.code]
  · rw [exec_frameIllegalLength_of_short s b hb, State.frameRejected_eq, if_pos hdec]
    simp [Cause.code]
  · rw [exec_frameIllegalLength_of_header s l rest hrest, State.frameRejected_eq, if_pos hdec]
    simp [Cause.code]
  · rw [exec, execFrameHeader, State.frameRejected_eq, if_pos hdec]
    simp [Cause.code]
  · simp only [exec, execBrokerIncoming, hhex]
    rw [s.deliverMalformed_awaited hawaits, if_pos ((s.handshake_iff).2 hcmd)]

/-- Settles O33: the row's frame is the association broadcast, and the identity is its payload bytes 1 to 4. -/
theorem listeningAcceptsTheBroadcast : Obligations.ListeningAcceptsTheBroadcast := by
  intro s h x n0 n1 n2 n3 hdec hlisten
  exact s.frameDecoded_broadcast (frameOf 0x80#8 h [x, n0, n1, n2, n3]) ⟨n0, n1, n2, n3⟩ hdec hlisten rfl rfl
    (by simp [frameOf, lengthByte]) rfl

/-- A frame of another source, or of another variant, is no association broadcast (R71, R153). -/
theorem isAssocBroadcast_eq_false {cfg : Cfg} {src : Byte} {h : FrameHead} {p : List Byte}
    (hother : familyOf src ≠ some .boiler ∨ variantOf .boiler (lengthByte p) cfg ≠ .assocBroadcast) :
    isAssocBroadcast cfg (frameOf src h p) = false := by
  rw [isAssocBroadcast, Bool.and_eq_false_iff, decide_eq_false_iff_not, decide_eq_false_iff_not]
  exact hother

/-- A listening sequencer drops the frame of a row that is no association broadcast (R153). -/
theorem dropsFrame_of_listening (s : State) (src : Byte) (h : FrameHead) {fam : Family} {v : Variant} {p : List Byte}
    (hdec : s.activity = .decoding) (hlisten : s.assoc = .awaitingBroadcast)
    (hw : payloadSelects s.cfg fam v p = true)
    (hother : familyOf src ≠ some .boiler ∨ (fam = .boiler ∧ v ≠ .assocBroadcast)) :
    DropsFrame s (.next (s.frameDecoded (frameOf src h p))) (frameOf src h p) := by
  obtain ⟨hp, hv⟩ := Laws.RoundTrip.payload_facts hw
  have hlen := frameOf_length_toNat src h hp
  refine s.frameDecoded_dropped _ hdec (.inl ⟨hlisten, isAssocBroadcast_eq_false ?_⟩) (by omega) (by omega)
  rcases hother with hsrc | ⟨rfl, hne⟩
  · exact .inl hsrc
  · exact .inr (hv ▸ hne)

/-- Settles O34: the other rows are those of other sources, and the boiler's rows of other variants. -/
theorem listeningDropsOtherFrames : Obligations.ListeningDropsOtherFrames := by
  intro s a h p hdec hlisten
  refine ⟨fun _ hne => absurd rfl (hne h p), ?_, ?_, ?_, ?_, ?_, ?_, ?_, ?_⟩ <;> intro hw _
  · exact dropsFrame_of_listening s _ h hdec hlisten hw (.inr ⟨rfl, by decide⟩)
  · exact dropsFrame_of_listening s _ h hdec hlisten hw (.inr ⟨rfl, by decide⟩)
  all_goals exact dropsFrame_of_listening s _ h hdec hlisten hw (.inl (by simp))

/-! ### The flag byte -/

/-- The place of the flag byte, where there is one (R121). -/
theorem State.flagOffset_of_report (s : State) (hsel : s.selectsTempReport = true) (h1 : 1 ≤ s.plen.toNat)
    (h249 : s.plen.toNat ≤ 249) : s.flagOffset = some (s.plen.toNat - 1) := by
  rw [State.flagOffset, if_pos ⟨hsel, h1, h249⟩]

theorem State.byteAt_setByte (s : State) (a : Nat) (b : Byte) : (s.setByte a b).byteAt a = b := by
  rw [State.byteAt, State.setByte_mem, Memory.read_write, if_pos (by simp)]
  simp

/-- A byte written at the flag byte's place is the flag byte. -/
theorem State.vFlags_setByte (s : State) (o : Nat) (b : Byte) (ho : s.flagOffset = some o) :
    (s.setByte (payloadBase + o) b).vFlags = some b := by
  obtain ⟨hlast, ho249⟩ := s.flagOffset_lt o ho
  have ho' : (s.setByte (payloadBase + o) b).flagOffset = some o := ho
  rw [State.vFlags, ho', Option.bind_some, State.payloadAt, if_pos ⟨by simp; omega, ho249⟩, State.byteAt_setByte]

/-- Settles O38: the row writes the packed fields at the flag byte's place, the last payload byte, where there is one. -/
theorem flagsWritesTheLastPayloadByte : Obligations.FlagsWritesTheLastPayloadByte := by
  intro s f
  refine ⟨fun hsel h1 h249 => ?_, fun hnone => ?_⟩
  · have ho := s.flagOffset_of_report hsel h1 h249
    have hflags := s.vFlags_setByte _ (packFlags f) ho
    refine ⟨s.setByte (payloadBase + (s.plen.toNat - 1)) (packFlags f), ?_, rfl, ?_, ?_, ?_⟩
    · simp only [exec, execFlags, ho]
    · rw [hflags, packFlags_eq_append]
    · rw [State.vFlagFields, hflags, Option.map_some, unpack_pack]
    · exact SameOutside.write _ _ _ [packFlags f] rfl
  · have ho : s.flagOffset = none := by
      rw [State.flagOffset, if_neg]
      rintro ⟨hsel, h1, h249⟩
      have h249 : s.plen.toNat ≤ 249 := h249
      rcases hnone with h | h | h
      · simp [hsel] at h
      all_goals omega
    simp only [exec, execFlags, ho]

end Sys2Proof.Machine
end

section
/-! PROOFS. The statements of 43_boiler_family.md, 44_probe_family.md and 45_satellite_family.md on the typed views. -/

namespace Sys2Proof.Machine

variable (s : State)

/-! ### When a view applies -/

theorem State.selects_iff (fam : Family) (v : Variant) :
    s.selects fam v = true ↔ familyOf s.fr.fromAddr = some fam ∧ variantOf fam s.fr.length s.cfg = v := by
  rw [State.selects, State.family, Bool.and_eq_true, decide_eq_true_iff, decide_eq_true_iff]

theorem familyOf_eq_boiler_iff (a : Byte) : familyOf a = some .boiler ↔ a = 0x80#8 :=
  ⟨familyOf_eq_boiler a, fun h => by rw [h]; rfl⟩

theorem familyOf_eq_probe_iff (a : Byte) : familyOf a = some .probe ↔ a = 0x20#8 :=
  ⟨familyOf_eq_probe a, fun h => by rw [h]; rfl⟩

theorem familyOf_eq_satellite_iff (a : Byte) :
    familyOf a = some .satellite ↔ a = 0x08#8 ∨ a = 0x09#8 ∨ a = 0x0A#8 := by
  refine ⟨fun h => ?_, fun h => by rcases h with rfl | rfl | rfl <;> rfl⟩
  rcases familyOf_cases a with ⟨ha, -⟩ | ⟨-, hf⟩ | ⟨-, hf⟩ | ⟨-, hf⟩
  · exact ha
  all_goals rw [hf] at h; cases h

/-- R100: the row of the length table that gives each variant. -/
theorem variantOf_eq_assocBroadcast_iff (len : Byte) (cfg : Cfg) :
    variantOf .boiler len cfg = .assocBroadcast ↔ len = 11#8 := by
  simp only [variantOf, BitVec.toNat_eq, BitVec.toNat_ofNat, Nat.reducePow, Nat.reduceMod]
  split_ifs <;> simp_all

theorem variantOf_eq_setTempResponse_iff (len : Byte) (cfg : Cfg) :
    variantOf .boiler len cfg = .setTempResponse ↔ len = 49#8 := by
  simp only [variantOf, BitVec.toNat_eq, BitVec.toNat_ofNat, Nat.reducePow, Nat.reduceMod]
  split_ifs <;> simp_all

theorem variantOf_eq_init_iff (len : Byte) (cfg : Cfg) : variantOf .probe len cfg = .init ↔ len = 8#8 := by
  simp only [variantOf, BitVec.toNat_eq, BitVec.toNat_ofNat, Nat.reducePow, Nat.reduceMod]
  split_ifs <;> simp_all

theorem variantOf_eq_probeReport_iff (len : Byte) (cfg : Cfg) :
    variantOf .probe len cfg = .tempReport ↔
      len ≠ 8#8 ∧ ¬ (cfg.annEn = true ∧ len.toNat = 6 + cfg.annPlen.toNat) ∧ cfg.tempEn = true ∧
        len.toNat = 6 + cfg.tempPlen.toNat := by
  simp only [variantOf, ne_eq, BitVec.toNat_eq, BitVec.toNat_ofNat, Nat.reducePow, Nat.reduceMod]
  split_ifs <;> simp_all

theorem variantOf_eq_satelliteReport_iff (len : Byte) (cfg : Cfg) :
    variantOf .satellite len cfg = .tempReport ↔ cfg.satTempEn = true ∧ len = cfg.lenSatTemp := by
  simp only [variantOf]
  split_ifs <;> simp_all

theorem State.selects_assocBroadcast_iff :
    s.selects .boiler .assocBroadcast = true ↔ s.fr.fromAddr = 0x80#8 ∧ s.fr.length = 11#8 := by
  rw [State.selects_iff, familyOf_eq_boiler_iff, variantOf_eq_assocBroadcast_iff]

theorem State.selects_setTempResponse_iff :
    s.selects .boiler .setTempResponse = true ↔ s.fr.fromAddr = 0x80#8 ∧ s.fr.length = 49#8 := by
  rw [State.selects_iff, familyOf_eq_boiler_iff, variantOf_eq_setTempResponse_iff]

theorem State.selects_init_iff :
    s.selects .probe .init = true ↔ s.fr.fromAddr = 0x20#8 ∧ s.fr.length = 8#8 := by
  rw [State.selects_iff, familyOf_eq_probe_iff, variantOf_eq_init_iff]

theorem State.selects_probeReport_iff : s.selects .probe .tempReport = true ↔ HoldsProbeReport s := by
  rw [State.selects_iff, familyOf_eq_probe_iff, variantOf_eq_probeReport_iff, HoldsProbeReport]

theorem State.selects_satelliteReport_iff : s.selects .satellite .tempReport = true ↔ HoldsSatelliteReport s := by
  rw [State.selects_iff, familyOf_eq_satellite_iff, variantOf_eq_satelliteReport_iff, HoldsSatelliteReport]

theorem State.selectsTempReport_iff :
    s.selectsTempReport = true ↔ HoldsProbeReport s ∨ HoldsSatelliteReport s := by
  rw [State.selectsTempReport, Bool.or_eq_true, State.selects_probeReport_iff, State.selects_satelliteReport_iff]

/-! ### Bytes of the payload -/

/-- R51: a view of one byte inside `FR.PLEN`. -/
theorem State.payloadAt_of_lt (i : Nat) (hi : i < s.plen.toNat) (h249 : i < 249) :
    s.payloadAt i = some (s.byteAt (0x1000 + i)) := by
  rw [State.payloadAt, if_pos ⟨hi, h249⟩]

theorem State.payloadAt_of_ge (i : Nat) (hi : s.plen.toNat ≤ i) : s.payloadAt i = none := by
  rw [State.payloadAt, if_neg (by omega)]

theorem State.le16At_of_lt (o : Nat) (ho : o + 2 ≤ s.plen.toNat) (h249 : o + 2 ≤ 249) :
    s.le16At o = some (s.byteAt (0x1000 + o + 1) ++ s.byteAt (0x1000 + o)) := by
  rw [State.le16At, s.payloadAt_of_lt o (by omega) (by omega), s.payloadAt_of_lt (o + 1) (by omega) (by omega)]
  simp only [le16_eq_append]
  rfl

theorem State.le16At_of_ge (o : Nat) (ho : s.plen.toNat < o + 2) : s.le16At o = none := by
  rw [State.le16At, s.payloadAt_of_ge (o + 1) (by omega)]
  split
  · rename_i h; cases h
  · rfl

/-! ### The boiler family -/

/-- Settles O12: the views read the five payload bytes of the selected broadcast. -/
theorem broadcastViews : Obligations.BroadcastViews := by
  intro s
  refine ⟨fun hsrc hlen hplen => ?_, fun hother => ?_⟩
  · have hsel := (s.selects_assocBroadcast_iff).2 ⟨hsrc, hlen⟩
    have hbyte : ∀ i, i < 5 → s.payloadAt i = some (s.byteAt (0x1000 + i)) := fun i hi =>
      s.payloadAt_of_lt i (by rw [hplen]; exact hi) (by omega)
    refine ⟨?_, ?_⟩
    · rw [State.vBcPrefix, if_pos hsel, hbyte 0 (by omega)]
    · simp only [State.vNetId, if_pos hsel, hbyte 1 (by omega), hbyte 2 (by omega), hbyte 3 (by omega),
        hbyte 4 (by omega)]
  · have hsel := mt (s.selects_assocBroadcast_iff).1 hother
    exact ⟨by rw [State.vBcPrefix, if_neg hsel], by rw [State.vNetId, if_neg hsel]⟩

/-- R78, R114: two decimal digits, and no value where one of them is none. -/
theorem dateByte_bcd_of_digits (b : Byte) (hi lo : Nat) (hhi : hi ≤ 9) (hlo : lo ≤ 9)
    (hb : b = BitVec.ofNat 8 (16 * hi + lo)) : dateByte true b = some (BitVec.ofNat 8 (10 * hi + lo)) := by
  have hval : b.toNat = 16 * hi + lo := by rw [hb, BitVec.toNat_ofNat]; omega
  rw [dateByte, if_pos rfl, if_pos (by omega), show b.toNat / 16 = hi by omega, show b.toNat % 16 = lo by omega]

theorem dateByte_bcd_of_noDigit (b : Byte) (h : 9 < b.toNat / 16 ∨ 9 < b.toNat % 16) : dateByte true b = none := by
  rw [dateByte, if_pos rfl, if_neg (by omega)]

/-- R114: the date views of a selected response. -/
theorem State.dateAt_of_response (o : Nat) (hsel : s.selects .boiler .setTempResponse = true) (hplen : s.plen = 43#8)
    (ho : o < 43) : s.dateAt o = dateByte s.cfg.dateBcd (s.byteAt (0x1000 + o)) := by
  rw [State.dateAt, if_pos hsel, s.payloadAt_of_lt o (by rw [hplen]; exact ho) (by omega), Option.bind_some]

/-- R114: the date is valid where all three of its views have a value. -/
theorem State.vDateValid_of_response (hsel : s.selects .boiler .setTempResponse = true) (hplen : s.plen = 43#8) :
    s.vDateValid = some (s.vYear.isSome && s.vMonth.isSome && s.vDay.isSome) := by
  have hbyte : ∀ i, i < 43 → s.payloadAt i = some (s.byteAt (0x1000 + i)) := fun i hi =>
    s.payloadAt_of_lt i (by rw [hplen]; exact hi) (by omega)
  simp only [State.vDateValid, if_pos hsel, State.vYear, State.vMonth, State.vDay, State.dateAt, hbyte 5 (by omega),
    hbyte 6 (by omega), hbyte 7 (by omega), Option.bind_some]

/-- Settles O13: the two patterns at their offsets, and the three date bytes in either mode. -/
theorem setTempViews : Obligations.SetTempViews := by
  intro s
  refine ⟨fun hsrc hlen hplen => ?_, fun hother => ?_⟩
  · have hsel := (s.selects_setTempResponse_iff).2 ⟨hsrc, hlen⟩
    have hplen' : s.plen.toNat = 43 := by rw [hplen]; rfl
    have hyear : s.vYear = dateByte s.cfg.dateBcd (s.byteAt 0x1005) := s.dateAt_of_response 5 hsel hplen (by omega)
    have hmonth : s.vMonth = dateByte s.cfg.dateBcd (s.byteAt 0x1006) := s.dateAt_of_response 6 hsel hplen (by omega)
    have hday : s.vDay = dateByte s.cfg.dateBcd (s.byteAt 0x1007) := s.dateAt_of_response 7 hsel hplen (by omega)
    have hvalid := s.vDateValid_of_response hsel hplen
    refine ⟨?_, ?_, fun hplain => ?_, fun hbcd => ?_⟩
    · rw [State.vTemperature, if_pos hsel, s.le16At_of_lt 2 (by omega) (by omega)]
    · rw [State.vConsigne, if_pos hsel, s.le16At_of_lt 16 (by omega) (by omega)]
    · rw [hplain] at hyear hmonth hday
      refine ⟨hyear, hmonth, hday, ?_⟩
      rw [hvalid, hyear, hmonth, hday]
      rfl
    · rw [hbcd] at hyear hmonth hday
      refine ⟨fun hi lo hhi hlo => ⟨fun h => ?_, fun h => ?_, fun h => ?_⟩, fun h => ?_, fun h => ?_, fun h => ?_,
        hvalid⟩
      · rw [hyear]; exact dateByte_bcd_of_digits _ hi lo hhi hlo h
      · rw [hmonth]; exact dateByte_bcd_of_digits _ hi lo hhi hlo h
      · rw [hday]; exact dateByte_bcd_of_digits _ hi lo hhi hlo h
      · rw [hyear]; exact dateByte_bcd_of_noDigit _ h
      · rw [hmonth]; exact dateByte_bcd_of_noDigit _ h
      · rw [hday]; exact dateByte_bcd_of_noDigit _ h
  · have hsel := mt (s.selects_setTempResponse_iff).1 hother
    simp [State.vTemperature, State.vConsigne, State.vYear, State.vMonth, State.vDay, State.dateAt, State.vDateValid, hsel]

/-! ### The probe and satellite families -/

/-- R121, R127: the flag byte of a selected report is its last payload byte. -/
theorem State.vFlags_of_report (hsel : s.selectsTempReport = true) (h249 : s.plen.toNat ≤ 249) :
    (1 ≤ s.plen.toNat → s.vFlags = some (s.byteAt (0x1000 + (s.plen.toNat - 1)))) ∧
      (s.plen.toNat = 0 → s.vFlags = none) := by
  refine ⟨fun h1 => ?_, fun h0 => ?_⟩
  · rw [State.vFlags, s.flagOffset_of_report hsel h1 h249, Option.bind_some,
      s.payloadAt_of_lt _ (by omega) (by omega)]
  · rw [State.vFlags, State.flagOffset, if_neg (by omega), Option.bind_none]

/-- Settles O14: each view applies where its frame is selected, and reads inside `FR.PLEN`. -/
theorem probeAndSatelliteViews : Obligations.ProbeAndSatelliteViews := by
  intro s
  refine ⟨fun hsrc hlen hplen => ?_, fun hother => ?_, fun hprobe hplen => ?_, fun hprobe => ?_, fun hsat hplen => ?_,
    fun hprobe hsat => ?_, rfl⟩
  · have hsel := (s.selects_init_iff).2 ⟨hsrc, hlen⟩
    have hplen' : s.plen.toNat = 2 := by rw [hplen]; rfl
    simp only [State.vInitData, if_pos hsel, s.payloadAt_of_lt 0 (by omega) (by omega),
      s.payloadAt_of_lt 1 (by omega) (by omega)]
  · rw [State.vInitData, if_neg (mt (s.selects_init_iff).1 hother)]
  · have hsel := (s.selects_probeReport_iff).2 hprobe
    obtain ⟨-, -, -, -, hlen⟩ := hprobe
    have h249 : s.plen.toNat ≤ 249 := by
      have := s.fr.length.isLt
      rw [hplen]; omega
    refine ⟨fun ho => ?_, fun ho => ?_, (s.vFlags_of_report ?_ h249).1, (s.vFlags_of_report ?_ h249).2⟩
    · rw [State.vExtTemp, if_pos hsel, s.le16At_of_lt _ ho (by omega)]
    · rw [State.vExtTemp, if_pos hsel, s.le16At_of_ge _ ho]
    all_goals rw [State.selectsTempReport, hsel, Bool.true_or]
  · rw [State.vExtTemp, if_neg (mt (s.selects_probeReport_iff).1 hprobe)]
  · have h249 : s.plen.toNat ≤ 249 := by have := s.fr.length.isLt; omega
    exact s.vFlags_of_report ((s.selectsTempReport_iff).2 (.inr hsat)) h249
  · have hsel : ¬ s.selectsTempReport = true := by
      rw [State.selectsTempReport_iff]
      exact fun h => h.elim hprobe hsat
    rw [State.vFlags, State.flagOffset, if_neg fun h => hsel h.1, Option.bind_none]

end Sys2Proof.Machine
end

section
/-! PROOFS. The statements of the host port: the register map, writes, and BUSY (10_state.md R38, R39; 48_host_commands.md
R171, R185). -/

namespace Sys2Proof.Machine

variable (s : State)

/-! ### What the port shows -/

theorem readingOfBit_eq (b : Bool) : readingOfBit b = .value ((BitVec.ofBool b).setWidth 32) := by cases b <;> rfl

theorem readingOfBitView_eq (v : Option Bool) : readingOfBitView v = readingOfView (v.map BitVec.ofBool) := by
  rcases v with _ | b
  · rfl
  · exact readingOfBit_eq b

/-- A number that reads as a view shows it. -/
theorem showsView_of_reading {w : Nat} {s : State} {n : Nat} {view : Option (BitVec w)}
    (h : s.reading n = readingOfView view) : ShowsView s n view := by
  refine ⟨fun v hv => ?_, fun hv => ?_⟩ <;> rw [h, hv] <;> rfl

/-- A 1-bit view is shown as a view of width 1. -/
theorem showsView_of_bitReading {s : State} {n : Nat} {view : Option Bool} (h : s.reading n = readingOfBitView view) :
    ShowsView s n (view.map BitVec.ofBool) :=
  showsView_of_reading (h.trans (readingOfBitView_eq view))

theorem State.reading_of_inArray {n : Nat} (h : inArray n = true) : s.reading n = s.elementReading n :=
  s.reading_of_regOf (by rw [regOf, if_pos h])

/-- An array's numbers read as its elements (U7). -/
theorem showsArray_of_bounds {s : State} {base size len : Nat} (harray : ∀ i, i < size → inArray (base + i) = true)
    (hbounds : ∀ i, i < size → s.arrayBounds (base + i) = (base, len)) : ShowsArray s base size len := by
  intro i hi
  rw [s.reading_of_inArray (harray i hi), State.elementReading, hbounds i hi]
  exact ⟨fun hlt => by rw [if_pos (by omega)]; rfl, fun hge => by rw [if_neg (by omega)]⟩

theorem inArray_ann (i : Nat) (h : i < payloadSize) : inArray (annBase + i) = true := by
  have h' : i < 249 := h
  simp [inArray, payloadBase, bufBase, txtBase, annBase, tempBase, payloadSize, bufSize, txtSize]
  omega

theorem inArray_temp (i : Nat) (h : i < payloadSize) : inArray (tempBase + i) = true := by
  have h' : i < 249 := h
  simp [inArray, payloadBase, bufBase, txtBase, annBase, tempBase, payloadSize, bufSize, txtSize]
  omega

/-- R45: the array of a register number, by where the arrays begin. -/
theorem State.arrayBounds_payload (i : Nat) (h : i < 249) : s.arrayBounds (payloadBase + i) = (payloadBase, s.plen.toNat) := by
  simp only [State.arrayBounds, payloadBase, bufBase]
  rw [if_pos (by omega)]

theorem State.arrayBounds_buf (i : Nat) (h : i < 256) : s.arrayBounds (bufBase + i) = (bufBase, s.bufLen.toNat) := by
  simp only [State.arrayBounds, bufBase, txtBase]
  rw [if_neg (by omega), if_pos (by omega)]

theorem State.arrayBounds_txt (i : Nat) (h : i < 512) : s.arrayBounds (txtBase + i) = (txtBase, s.txtLen.toNat) := by
  simp only [State.arrayBounds, bufBase, txtBase, annBase]
  rw [if_neg (by omega), if_neg (by omega), if_pos (by omega)]

theorem State.arrayBounds_ann (i : Nat) (h : i < 249) : s.arrayBounds (annBase + i) = (annBase, s.cfg.annPlen.toNat) := by
  simp only [State.arrayBounds, bufBase, txtBase, annBase, tempBase]
  rw [if_neg (by omega), if_neg (by omega), if_neg (by omega), if_pos (by omega)]

theorem State.arrayBounds_temp (i : Nat) : s.arrayBounds (tempBase + i) = (tempBase, s.cfg.tempPlen.toNat) := by
  simp only [State.arrayBounds, bufBase, txtBase, annBase, tempBase]
  rw [if_neg (by omega), if_neg (by omega), if_neg (by omega), if_neg (by omega)]

/-- Settles O27: each number is looked up in the map, and its register read; the bits, the identities and the pairs of bytes
in the statement's own form. -/
theorem portReadsTheRegisters : Obligations.PortReadsTheRegisters := by
  intro s
  have hreg : ∀ {n : Nat} {r : Reg}, regOf n = some r → s.reading n = s.readReg r := s.reading_of_regOf
  have hbit : ∀ {n : Nat} {b : Bool}, s.reading n = readingOfBit b → s.reading n = .value ((BitVec.ofBool b).setWidth 32) :=
    fun h => h.trans (readingOfBit_eq _)
  refine ⟨⟨rfl, rfl, rfl, rfl, rfl, rfl⟩, ?_, ⟨rfl, rfl, rfl, rfl, rfl, ?_⟩, ⟨rfl, rfl, rfl, rfl, rfl, rfl, rfl, rfl, rfl⟩,
    ⟨hbit rfl, hbit rfl, rfl, ?_, rfl, rfl, rfl, hbit rfl⟩,
    ⟨hbit rfl, rfl, rfl, rfl, rfl, rfl, rfl, hbit rfl, rfl, rfl, rfl, rfl⟩, ?_, ?_, ?_⟩
  · have hassoc : s.reading 0x07 = readingOf (assocCode s.assoc) := rfl
    refine ⟨?_, ?_, ?_, ?_, ?_, ?_, ?_, ?_⟩ <;> (intro h; rw [hassoc, h]; rfl)
  · exact congrArg Reading.value (netIdWord_eq_append s.bcNetId)
  · exact congrArg Reading.value (BitVec.setWidth_eq s.cfg.retryDelay)
  · have hnid : s.reading 0x51 = readingOfView (s.vNetId.map fun n => n.b0 ++ n.b1 ++ n.b2 ++ n.b3) := by
      have hword : netIdWord = fun n : NetId => n.b0 ++ n.b1 ++ n.b2 ++ n.b3 := funext netIdWord_eq_append
      rw [← hword]; rfl
    exact ⟨showsView_of_reading rfl, showsView_of_reading hnid, showsView_of_reading rfl, showsView_of_reading rfl,
      showsView_of_reading rfl, showsView_of_reading rfl, showsView_of_reading rfl, showsView_of_bitReading rfl⟩
  · have hinit : s.reading 0x58 = readingOfView (s.vInitData.map fun d => d.1 ++ d.2) := by
      have hpair : (fun d : Byte × Byte => be16 d.1 d.2) = fun d => d.1 ++ d.2 := funext fun d => be16_eq_append d.1 d.2
      rw [← hpair]; rfl
    have hflag : ∀ {n : Nat} {g : FlagFields → Bool}, s.reading n = readingOfBitView (s.vFlagFields.map g) →
        ShowsView s n (s.vFlagFields.map fun f => BitVec.ofBool (g f)) := fun h => by
      have := showsView_of_bitReading h
      rwa [Option.map_map] at this
    exact ⟨showsView_of_reading hinit, showsView_of_reading rfl, showsView_of_reading rfl, showsView_of_reading rfl,
      hflag rfl, showsView_of_reading rfl, hflag rfl, hflag rfl⟩
  · exact ⟨showsArray_of_bounds inArray_payload s.arrayBounds_payload, showsArray_of_bounds inArray_buf s.arrayBounds_buf,
      showsArray_of_bounds inArray_txt s.arrayBounds_txt, showsArray_of_bounds inArray_ann s.arrayBounds_ann,
      showsArray_of_bounds inArray_temp fun i _ => s.arrayBounds_temp i⟩

/-! ### The step of a host write -/

/-- A write that is no command and not at the flag byte's place is the port's own. -/
theorem step_hostWrite (n : Nat) (v : PortWord) (es : List Event) (hscript : s.events = .hostWrite n v :: es) (hn : n ≠ 0)
    (hflag : ∀ o, s.flagOffset = some o → n ≠ payloadBase + o) : step s = .next ((s.withEvents es).hostWrite n v) := by
  have hplace : ¬ (s.withEvents es).flagOffset.map (fun o => payloadBase + o) = some n := by
    intro h
    obtain ⟨o, ho, ho'⟩ := Option.map_eq_some_iff.1 h
    exact hflag o ho ho'.symm
  have hf : (s.withEvents es).fetchWrite n v = none := by
    rw [State.fetchWrite, if_neg hn, if_neg hplace, ite_self]
  simp only [step, State.fetch, hscript, hf, State.runEvent]

/-- R185: a write while BUSY is ignored. -/
theorem step_hostWrite_of_busy (n : Nat) (v : PortWord) (es : List Event) (hbusy : s.busy = true)
    (hscript : s.events = .hostWrite n v :: es) : step s = .next (s.withEvents es) := by
  have hbusy' : (s.withEvents es).busy = true := hbusy
  have hf : (s.withEvents es).fetchWrite n v = none := by rw [State.fetchWrite, if_pos hbusy']
  simp only [step, State.fetch, hscript, hf, State.runEvent, State.hostWrite, if_pos hbusy']

/-- A number outside the arrays is no flag byte's place. -/
theorem State.flagPlace_ne (n o : Nat) (hn : inArray n = false) (ho : s.flagOffset = some o) : n ≠ payloadBase + o := by
  rintro rfl
  rw [inArray_payload o (s.flagOffset_lt o ho).2] at hn
  cases hn

/-- A write to a register outside the arrays. -/
theorem step_writeReg (n : Nat) (r : Reg) (v : PortWord) (es : List Event) (hbusy : s.busy = false)
    (hscript : s.events = .hostWrite n v :: es) (hn : n ≠ 0) (harray : inArray n = false) (hreg : regOf n = some r) :
    step s = .next ((s.withEvents es).writeReg r v) := by
  rw [step_hostWrite s n v es hscript hn fun o => s.flagPlace_ne n o harray, State.hostWrite,
    if_neg (by simp [hbusy]), hreg]

/-- A write to an array element, at the flag byte's place or not: there it packs the fields it has unpacked. -/
theorem step_writeElement (n : Nat) (v : PortWord) (es : List Event) (hbusy : s.busy = false)
    (hscript : s.events = .hostWrite n v :: es) (harray : inArray n = true) :
    step s = .next ((s.withEvents es).setByte n (v.setWidth 8)) := by
  have hn : n ≠ 0 := by rintro rfl; cases harray
  by_cases hplace : ∃ o, s.flagOffset = some o ∧ n = payloadBase + o
  · obtain ⟨o, ho, rfl⟩ := hplace
    have hbusy' : (s.withEvents es).busy = false := hbusy
    have ho' : (s.withEvents es).flagOffset = some o := ho
    have hf : s.fetch = some (.flagByte (v.setWidth 8), s.withEvents es) := by
      simp [State.fetch, hscript, State.fetchWrite, hbusy', ho']
    simp only [step, hf, Sys2Proof.decode, exec, execFlags, ho', pack_unpack]
  · rw [step_hostWrite s n v es hscript hn fun o ho h => hplace ⟨o, ho, h⟩, State.hostWrite, if_neg (by simp [hbusy]),
      regOf, if_pos harray]
    simp only [State.writeReg, if_pos harray]

/-! ### Reserved and read-only numbers -/

theorem findReg_eq_none (l : List (Nat × Reg)) (n : Nat) (h : ∀ e ∈ l, e.1 ≠ n) : findReg l n = none := by
  induction l with
  | nil => rfl
  | cons e l ih =>
    rw [findReg, if_neg (h e List.mem_cons_self)]
    exact ih fun d hd => h d (List.mem_cons_of_mem e hd)

/-- R38: the ranges of the scalar registers' numbers. -/
theorem scalarRegs_ranges : ∀ e ∈ scalarRegs, e.1 ≤ 0x0D ∨ (0x10 ≤ e.1 ∧ e.1 ≤ 0x18) ∨ (0x20 ≤ e.1 ∧ e.1 ≤ 0x21) ∨
    (0x30 ≤ e.1 ∧ e.1 ≤ 0x37) ∨ (0x40 ≤ e.1 ∧ e.1 ≤ 0x4B) ∨ (0x50 ≤ e.1 ∧ e.1 ≤ 0x5F) := by decide

theorem inArray_eq_false {n : Nat} (h : n < 0x1000 ∨ (0x10F8 < n ∧ n < 0x1100) ∨ (0x14F8 < n ∧ n < 0x1500) ∨ 0x15F8 < n) :
    inArray n = false := by
  simp [inArray, payloadBase, bufBase, txtBase, annBase, tempBase, payloadSize, bufSize, txtSize]
  omega

/-- The read-only registers of the map, besides `CMD` (R38). -/
def Reg.readOnly : Reg → Bool
  | .status | .result | .errExpected | .errActual | .errState | .consumed => true
  | .assocState | .retryCnt | .bcRequestId | .bcMsgType | .bcRoa | .bcFrom | .bcNetId => true
  | .family | .variant => true
  | .vBcPrefix | .vNetId | .vTemperature | .vConsigne | .vYear | .vMonth | .vDay | .vDateValid | .vInitData => true
  | .vExtTemp | .vFlags | .vMode1 | .vFrost | .vMode2 | .vOverride | .vSun => true
  | _ => false

theorem State.writeReg_readOnly (r : Reg) (v : PortWord) (h : r.readOnly = true) : s.writeReg r v = s := by
  cases r <;> first | rfl | cases h

theorem regOf_readOnly : ∀ n, n < 0x60 → (0x01 ≤ n ∧ n ≤ 0x0D) ∨ n = 0x17 ∨ n = 0x18 ∨ (0x50 ≤ n ∧ n ≤ 0x5F) →
    (regOf n).any Reg.readOnly = true := by decide

/-- Settles O30: a reserved number stands in no row of the map; a read-only register's row has no write. -/
theorem reservedAndReadOnlyNumbers : Obligations.ReservedAndReadOnlyNumbers := by
  intro s n v es
  refine ⟨fun hn => ?_, fun hn hscript => ?_⟩
  · have harray : inArray n = false := inArray_eq_false (by omega)
    have hreg : regOf n = none := by
      rw [regOf, harray, if_neg (by decide)]
      exact findReg_eq_none _ n fun e he heq => by have := scalarRegs_ranges e he; omega
    refine ⟨by rw [State.reading, hreg], fun hscript => ?_⟩
    rw [step_hostWrite s n v es hscript (by omega) fun o => s.flagPlace_ne n o harray, State.hostWrite, hreg, ite_self]
  · have harray : inArray n = false := inArray_eq_false (by omega)
    have hro := regOf_readOnly n (by omega) hn
    cases hreg : regOf n with
    | none => simp [hreg] at hro
    | some r =>
      rw [hreg, Option.any_some] at hro
      rw [step_hostWrite s n v es hscript (by omega) fun o => s.flagPlace_ne n o harray, State.hostWrite, hreg]
      simp only [State.writeReg_readOnly _ r v hro, ite_self]

/-! ### Writable registers -/

/-- The parts of the state that hold the scalar registers a host write stores as they come, cut to their width: the frame,
the parameters, the templates (R38, R39). -/
inductive RegPart where
  | frame
  | parameters
  | templates
  deriving DecidableEq

/-- The part and the width of each of these registers; the two buffer lengths are limited otherwise. -/
def Reg.stored : Reg → Option (RegPart × Nat)
  | .frLength | .frToAddr | .frFromAddr | .frReqOrAnswer | .frMsgType | .frPlen => some (.frame, 8)
  | .frRequestId => some (.frame, 16)
  | .cfgDateMode | .cfgHexUpper | .cfgSatTempEn => some (.parameters, 1)
  | .cfgMaxRetry | .cfgExtTemp => some (.parameters, 16)
  | .cfgRetryDelay => some (.parameters, 32)
  | .cfgExtTempOff | .cfgLenSatTemp => some (.parameters, 8)
  | .tplAnnEn | .tplTempEn => some (.templates, 1)
  | .tplInitRequestId | .tplTempRequestId => some (.templates, 16)
  | .tplAnnPlen | .tplInitRoa | .tplInitMsgType | .tplInitData0 | .tplInitData1 => some (.templates, 8)
  | .tplTempPlen | .tplTempRoa | .tplTempMsgType => some (.templates, 8)
  | _ => none

theorem readingOfBit_bitOf (v : PortWord) : readingOfBit (bitOf v) = .value (BitVec.ofNat 32 (v.toNat % 2)) := by
  rw [readingOfBit, bitOf, BitVec.getLsbD, Nat.testBit_zero]
  rcases Nat.mod_two_eq_zero_or_one v.toNat with h | h <;> rw [h] <;> rfl

theorem readingOf_setWidth (w : Nat) (v : PortWord) :
    readingOf (v.setWidth w) = .value (BitVec.ofNat 32 (v.toNat % 2 ^ w)) := by
  refine congrArg Reading.value (BitVec.eq_of_toNat_eq ?_)
  rw [BitVec.toNat_setWidth, BitVec.toNat_setWidth, BitVec.toNat_ofNat]

/-- R39: such a register reads back what was written, cut to its width. -/
theorem State.readReg_writeReg_same (r : Reg) (p : RegPart) (w : Nat) (v : PortWord) (h : r.stored = some (p, w)) :
    (s.writeReg r v).readReg r = .value (BitVec.ofNat 32 (v.toNat % 2 ^ w)) := by
  cases r <;> cases h
  case cfgDateMode => exact readingOfBit_bitOf v
  case cfgHexUpper => exact readingOfBit_bitOf v
  case cfgSatTempEn => exact readingOfBit_bitOf v
  case tplAnnEn => exact readingOfBit_bitOf v
  case tplTempEn => exact readingOfBit_bitOf v
  case cfgRetryDelay => rw [← readingOf_setWidth 32 v, BitVec.setWidth_eq]; rfl
  all_goals exact readingOf_setWidth _ v

section
variable (r q : Reg) (v : PortWord) (hne : q ≠ r) (hq : q.stored.isSome = true)
include hne hq

theorem State.readReg_writeReg_frame (hr : r.stored.map Prod.fst = some .frame) :
    (s.writeReg r v).readReg q = s.readReg q := by
  cases r <;> cases hr <;> cases q <;> cases hq <;> first | exact absurd rfl hne | rfl

theorem State.readReg_writeReg_parameters (hr : r.stored.map Prod.fst = some .parameters) :
    (s.writeReg r v).readReg q = s.readReg q := by
  cases r <;> cases hr <;> cases q <;> cases hq <;> first | exact absurd rfl hne | rfl

theorem State.readReg_writeReg_templates (hr : r.stored.map Prod.fst = some .templates) :
    (s.writeReg r v).readReg q = s.readReg q := by
  cases r <;> cases hr <;> cases q <;> cases hq <;> first | exact absurd rfl hne | rfl

end

theorem State.readReg_writeReg_of_ne (r q : Reg) (v : PortWord) (hne : q ≠ r) (hr : r.stored.isSome = true)
    (hq : q.stored.isSome = true) : (s.writeReg r v).readReg q = s.readReg q := by
  obtain ⟨⟨p, w⟩, hp⟩ := Option.isSome_iff_exists.1 hr
  have hpart : r.stored.map Prod.fst = some p := congrArg _ hp
  cases p with
  | frame => exact s.readReg_writeReg_frame r q v hne hq hpart
  | parameters => exact s.readReg_writeReg_parameters r q v hne hq hpart
  | templates => exact s.readReg_writeReg_templates r q v hne hq hpart

/-- A write to such a register stays in the frame and the configuration. -/
theorem State.writeReg_stored (r : Reg) (v : PortWord) (h : r.stored.isSome = true) :
    s.writeReg r v = { s with fr := (s.writeReg r v).fr, plen := (s.writeReg r v).plen, cfg := (s.writeReg r v).cfg } := by
  cases r <;> first | rfl | cases h

theorem scalarRegs_nodup : (scalarRegs.map Prod.snd).Nodup := by decide

/-- R38: below the arrays no register has two numbers. -/
theorem regOf_injective {n m : Nat} {r : Reg} (hn : n < 0x1000) (hm : m < 0x1000) (hnr : regOf n = some r)
    (hmr : regOf m = some r) : n = m := by
  rw [regOf, inArray_eq_false (.inl hn), if_neg (by decide)] at hnr
  rw [regOf, inArray_eq_false (.inl hm), if_neg (by decide)] at hmr
  exact congrArg Prod.fst (List.inj_on_of_nodup_map scalarRegs_nodup (findReg_mem _ _ _ hnr) (findReg_mem _ _ _ hmr) rfl)

/-- The numbers of the registers that are stored as they come. -/
theorem regOf_stored : ∀ n, n < 0x4C → (0x10 ≤ n ∧ n ≤ 0x16) ∨ (0x30 ≤ n ∧ n ≤ 0x37) ∨ (0x40 ≤ n ∧ n ≤ 0x4B) →
    (regOf n).any (fun r => r.stored.isSome) = true := by decide

/-- A table of numbers and widths that agrees with the map. -/
theorem storedWidth_of_mem {l : List (Nat × Nat)} {n w : Nat}
    (hall : l.all (fun e => ((regOf e.1).bind Reg.stored).map Prod.snd = some e.2) = true) (h : (n, w) ∈ l) :
    ((regOf n).bind Reg.stored).map Prod.snd = some w := by
  have hdec := List.all_eq_true.1 hall (n, w) h
  rwa [decide_eq_true_iff] at hdec

/-- Settles O29: a register's part is written and read back; no other register has its number. -/
theorem registersReadBack : Obligations.RegistersReadBack := by
  intro s v es hbusy
  refine ⟨fun n w hnw hscript => ?_, fun hscript => ?_, fun hscript => ?_, fun n harray hscript => ?_⟩
  · have hn : (0x10 ≤ n ∧ n ≤ 0x16) ∨ (0x30 ≤ n ∧ n ≤ 0x37) ∨ (0x40 ≤ n ∧ n ≤ 0x4B) := by
      revert hnw; simp only [List.mem_cons, Prod.mk.injEq, List.not_mem_nil, or_false]; omega
    have hwidth := storedWidth_of_mem (by decide) hnw
    obtain ⟨⟨p, _⟩, hbind, rfl⟩ := Option.map_eq_some_iff.1 hwidth
    obtain ⟨r, hreg, hstored⟩ := Option.bind_eq_some_iff.1 hbind
    have hsome : r.stored.isSome = true := by rw [hstored]; rfl
    refine ⟨_, step_writeReg s n r v es hbusy hscript (by omega) (inArray_eq_false (by omega)) hreg,
      (s.withEvents es).writeReg_stored r v hsome, ?_, fun m hm hmn => ?_⟩
    · rw [State.reading_of_regOf _ hreg, State.readReg_writeReg_same _ r p _ v hstored]
    · obtain ⟨q, hq, hqs⟩ := (Option.any_eq_true _ _).1 (regOf_stored m (by omega) hm)
      have hqr : q ≠ r := fun h => hmn (regOf_injective (by omega) (by omega) hq (h ▸ hreg))
      rw [State.reading_of_regOf _ hq, State.reading_of_regOf _ hq, State.readReg_writeReg_of_ne _ r q v hqr hsome hqs]
      cases q <;> rfl
  · rw [step_writeReg s 0x20 .bufLen v es hbusy hscript (by decide) rfl rfl]
    simp only [State.writeReg]
    split <;> rfl
  · rw [step_writeReg s 0x21 .txtLen v es hbusy hscript (by decide) rfl rfl]
    simp only [State.writeReg]
    split <;> rfl
  · refine ⟨_, step_writeElement s n v es hbusy hscript harray, rfl, ?_, SameOutside.write _ _ _ [_] rfl⟩
    exact State.byteAt_setByte _ _ _

/-! ### BUSY -/

theorem State.assertReset_busy : s.assertReset.busy = false := by
  simp [State.busy, State.assertReset, State.reset, statusBusy]

theorem State.withEvents_lineDue (es : List Event) :
    (s.withEvents es).lineDue = s.lineDue.map fun p => (p.1, p.2.withEvents es) := by
  rw [State.lineDue, State.lineDue, apply_ite (Option.map _), Option.map_map]; rfl

/-- Settles O26: a write while BUSY and a turn while a call waits bring up no unit and are ignored; a read and reset bring up
none either. -/
theorem busyIgnoresTheHost : Obligations.BusyIgnoresTheHost := by
  intro s es
  refine ⟨fun n v hbusy hscript => step_hostWrite_of_busy s n v es hbusy hscript, fun n hscript => ?_,
    fun c hwait hout hline hscript => ?_, fun _ hscript => ⟨_, step_reset s es hscript, State.assertReset_busy _⟩⟩
  · refine ⟨(s.withEvents es).hostRead n, ?_, ?_, fun v hv => ?_, fun w hw => ?_⟩
    · simp only [step, State.fetch, hscript, State.runEvent]
    · rw [State.hostRead_frame]; rfl
    · have hv' : (s.withEvents es).reading n = .value v := hv
      simp [State.hostRead, hv']
    · have hw' : (s.withEvents es).reading n = .unspecified w := hw
      simp only [State.hostRead, hw', BitVec.toNat_setWidth]
      exact ⟨lt_of_le_of_lt (Nat.mod_le _ _) (Nat.mod_lt _ (by positivity)), rfl⟩
  · have hline' : (s.withEvents es).lineDue = none := by rw [State.withEvents_lineDue, hline, Option.map_none]
    simp [step, State.fetch, hscript, State.fetchTurn, hout, hwait, State.fetchLine, hline', State.runEvent,
      State.givenTurn]

end Sys2Proof.Machine
end

section
/-! PROOFS. The statements of the transport: calls on the link, answers, the incoming stream (46_transport.md R129 to R148,
R195), and the statements about the step itself. -/

namespace Sys2Proof.Machine

variable (s : State)

/-! ### The places of the units -/

theorem step_of_fetch {s s1 : State} {u : Encoded} {i : Instr} (hf : s.fetch = some (u, s1))
    (hd : Sys2Proof.decode s1.cfg u = .ok i) : step s = exec i s1 := by
  simp only [step, hf, hd]

/-- An act that brings up no unit is carried out. -/
theorem step_of_no_fetch {s : State} (hf : s.fetch = none) : step s = s.runEvent := by simp only [step, hf]

theorem State.fetch_scriptOver (hscript : s.events = []) : s.fetch = s.fetchTurn := by simp only [State.fetch, hscript]

theorem State.fetch_turn (es : List Event) (hscript : s.events = .turn :: es) : s.fetch = (s.withEvents es).fetchTurn := by
  simp only [State.fetch, hscript]

theorem State.fetch_answer (n : Nat) (a : Answer) (es : List Event) (hscript : s.events = .answer n a :: es) :
    s.fetch = (s.withEvents es).fetchAnswer n a := by
  simp only [State.fetch, hscript]

theorem State.fetchTurn_wire (w : WireItem) (rest : List WireItem) (hout : s.outbound = w :: rest) :
    s.fetchTurn = some (.wire w, s.withOutbound rest) := by
  simp only [State.fetchTurn, hout]

theorem State.fetchTurn_frame (hout : s.outbound = []) (hdec : s.activity = .decoding) :
    s.fetchTurn = some (.frame s.bufBytes, s) := by
  simp only [State.fetchTurn, hout, hdec, if_true]

theorem State.fetchTurn_line (hout : s.outbound = []) (hdec : s.activity ≠ .decoding) : s.fetchTurn = s.fetchLine := by
  simp only [State.fetchTurn, hout, if_neg hdec]

theorem State.fetch_flagByte (v : PortWord) (o : Nat) (es : List Event) (hbusy : s.busy = false)
    (hplace : s.flagOffset = some o) (hscript : s.events = .hostWrite (payloadBase + o) v :: es) :
    s.fetch = some (.flagByte (v.setWidth 8), s.withEvents es) := by
  have hbusy' : (s.withEvents es).busy = false := hbusy
  have hplace' : (s.withEvents es).flagOffset = some o := hplace
  simp [State.fetch, hscript, State.fetchWrite, hbusy', hplace', payloadBase]

/-- R142: the first complete line, where a receive waits on the serial link. -/
theorem State.fetchLine_of_line (line rest : List Byte) (hawaits : s.awaitsFrame = true) (hlink : s.link = .serial)
    (hline : splitLine s.incoming = some (line, rest)) :
    s.fetchLine = some (.incomingLine (line ++ [charCR, charLF]), s.withIncoming rest) := by
  rw [State.fetchLine, State.lineDue, if_pos ⟨hawaits, hlink⟩, nextLine, hline]
  rfl

theorem State.fetchLine_of_noLine (hline : splitLine s.incoming = none) : s.fetchLine = none := by
  rw [State.fetchLine, State.lineDue, nextLine, hline, Option.map_none, Option.map_none, ite_self, Option.map_none]

theorem State.fetchAnswer_broker (text : List Byte) (hawaits : s.awaitsFrame = true) (hlink : s.link = .broker) :
    s.fetchAnswer s.issued (.ok text) = some (.incomingField text, s) := by
  simp only [State.fetchAnswer, hawaits, hlink, and_self, if_true]

theorem State.fetchAnswer_serial (text : List Byte) (hawaits : s.awaitsFrame = true) (hlink : s.link = .serial) :
    s.fetchAnswer s.issued (.ok text) = (s.withIncoming (s.incoming ++ text)).fetchLine := by
  simp only [State.fetchAnswer, hawaits, hlink, and_self, if_true, State.arrive_eq]

/-- Settles O53: the step executes what its fetch decodes; the fetch by the place of each format. -/
theorem stepRunsTheDecodedInstruction : Obligations.StepRunsTheDecodedInstruction := by
  refine ⟨fun s s1 u i => step_of_fetch, fun s es => ⟨fun w rest hout => ⟨fun he => ?_, fun he => ?_⟩,
    fun hout hdec => ⟨fun he => ?_, fun he => ?_⟩, fun v hbusy he => s.fetch_write_cmd v es hbusy he,
    fun v o hbusy hplace he => s.fetch_flagByte v o es hbusy hplace he, fun text hwait hout he => ?_⟩⟩
  · rw [s.fetch_scriptOver he, s.fetchTurn_wire w rest hout]
  · exact (s.fetch_turn es he).trans ((s.withEvents es).fetchTurn_wire w rest hout)
  · rw [s.fetch_scriptOver he, s.fetchTurn_frame hout hdec]
  · rw [s.fetch_turn es he, ← s.withEvents_bufBytes es]; exact (s.withEvents es).fetchTurn_frame hout hdec
  · have hawaits : (s.withEvents es).awaitsFrame = true := s.awaitsFrame_iff.2 ⟨hwait, hout⟩
    rw [s.fetch_answer _ _ es he]
    refine ⟨fun hlink => (s.withEvents es).fetchAnswer_broker text hawaits hlink, fun line rest hlink hline => ?_⟩
    refine ((s.withEvents es).fetchAnswer_serial text hawaits hlink).trans ?_
    exact State.fetchLine_of_line _ line rest hawaits hlink hline

/-- Settles O28: with no unit to bring up the step is the block's own turn, which waits or is idle. -/
theorem hangAndQuiescence : Obligations.HangAndQuiescence := by
  intro s hout hscript
  refine ⟨fun c hwait hline => ?_, fun hidle => ?_⟩
  · have hf : s.fetch = none := by
      rw [s.fetch_scriptOver hscript, s.fetchTurn_line hout (by simp [hwait]), State.fetchLine, hline, Option.map_none]
    simp only [step_of_no_fetch hf, State.runEvent, hscript, State.ownTurn, hwait]
  · have hf : s.fetch = none := by
      rw [s.fetch_scriptOver hscript, s.fetchTurn_line hout (by simp [hidle]), s.fetchLine_unawaited (by simp [hidle])]
    simp only [step_of_no_fetch hf, State.runEvent, hscript, State.ownTurn, hidle]

/-! ### The transport takes a call -/

theorem State.disturbRadio_of_awake (h : s.radioStandby = false) : s.disturbRadio = s := by
  rw [State.disturbRadio, h, if_neg (by decide)]

/-- R209: only the standby of the radio, and the count of free values, can change. -/
theorem State.disturbRadio_eq :
    s.disturbRadio = { s with radioStandby := s.disturbRadio.radioStandby, draws := s.disturbRadio.draws } := by
  rcases s.disturbRadio_cases with ⟨-, h⟩ | ⟨-, h⟩ <;> rw [h]

/-- Settles O39: the two rows of a call have the same effect, the call's. -/
theorem outgoingRowsReachTheRadio : Obligations.OutgoingRowsReachTheRadio := by
  intro s
  refine ⟨fun nid i hi => ⟨s.takeCall (.setNetworkId nid), ?_, ?_, fun h => ?_⟩,
    fun b i hi => ⟨s.takeCall (.send b), ?_, ?_, fun h => ?_⟩,
    fun i hi => ⟨s.takeCall .receive, ?_, ?_, fun h => ?_⟩, fun i hi => ?_⟩
  case refine_1 | refine_4 | refine_7 | refine_10 => rcases hi with rfl | rfl <;> rfl
  case refine_2 | refine_5 | refine_8 => rw [State.takeCall, State.disturbRadio_eq]
  all_goals rw [State.takeCall, s.disturbRadio_of_awake h]; exact ⟨h, rfl⟩

/-- The row of the opcode table that a call is on a link (R129). -/
def callRow : Link → Call → Instr
  | .serial, .setNetworkId n => .serialNid n
  | .serial, .send b => .serialCmd b
  | .serial, .receive => .serialLst
  | .serial, .sleep => .serialSlp
  | .broker, .setNetworkId n => .brokerSetNetworkId n
  | .broker, .send b => .brokerSend b
  | .broker, .receive => .brokerListen
  | .broker, .sleep => .brokerSleep

theorem exec_row (l : Link) (c : Call) : exec (callRow l c) s = .next (s.takeCall c) := by
  cases l <;> cases c <;> rfl

theorem encode_row (l : Link) (u : Bool) (c : Call) : Sys2Proof.encode u (callRow l c) = .wire (wireForm l u c) := by
  cases l <;> cases c <;> rfl

theorem wellFormed_row (cfg : Cfg) (l : Link) (c : Call) (hsend : ∀ b, c = .send b → 1 ≤ b.length ∧ b.length ≤ 256) :
    WellFormed cfg (callRow l c) = true := by
  cases c with
  | send b =>
    have h := hsend b rfl
    cases l <;> simp [callRow, WellFormed, sendable, h]
  | setNetworkId n => cases l <;> rfl
  | receive => cases l <;> rfl
  | sleep => cases l <;> rfl

/-- Settles O41: the text of a call is the encoding of its row, so it decodes to the row, whose meaning is the call. -/
theorem takingAnIssuedCall : Obligations.TakingAnIssuedCall := by
  intro s l u c rest hsend hout
  have hdecode : ∀ cfg, Sys2Proof.decode cfg (.wire (wireForm l u c)) = .ok (callRow l c) := fun cfg => by
    rw [← encode_row]
    exact decodeOfEncodeIsIdentity cfg u _ (wellFormed_row cfg l c hsend)
  refine ⟨fun he => ?_, fun es he => ?_⟩
  · rw [step_of_fetch ((s.fetch_scriptOver he).trans (s.fetchTurn_wire _ rest hout)) (hdecode _), exec_row]
  · rw [step_of_fetch ((s.fetch_turn es he).trans (State.fetchTurn_wire _ _ rest hout)) (hdecode _), exec_row]

/-! ### Answers -/

theorem exec_serialIncoming_ok (text b : List Byte) (h : hexDecode text = .ok b) :
    exec (.serialIncoming text) s = .next (s.deliver b) := by
  simp only [exec, execSerialIncoming, h]

theorem exec_serialIncoming_error (text : List Byte) (r : Raised) (h : hexDecode text = .error r) :
    exec (.serialIncoming text) s = .next s := by
  simp only [exec, execSerialIncoming, h]

theorem exec_brokerIncoming_ok (text b : List Byte) (h : hexDecode text = .ok b) :
    exec (.brokerIncoming text) s = .next (s.deliver b) := by
  simp only [exec, execBrokerIncoming, h]

theorem exec_brokerIncoming_error (text : List Byte) (r : Raised) (h : hexDecode text = .error r) :
    exec (.brokerIncoming text) s = .next s.deliverMalformed := by
  simp only [exec, execBrokerIncoming, h]

/-- Settles O42: a delivery, or none, by whether the text is hex and whether a receive waits. -/
theorem incomingRowsDeliver : Obligations.IncomingRowsDeliver := by
  intro s text
  refine ⟨fun b hawaits hb => ?_, fun r hr => exec_serialIncoming_error s text r hr, fun r hawaits hcmd hr => ?_,
    fun hawaits => ?_⟩
  · rw [exec_serialIncoming_ok s text b hb, exec_brokerIncoming_ok s text b hb]
    exact ⟨s.deliver_awaited b hawaits, s.deliver_awaited b hawaits⟩
  · rw [exec_brokerIncoming_error s text r hr, s.deliverMalformed_awaited hawaits, if_neg (mt s.handshake_iff.1 hcmd)]
  · cases h : hexDecode text with
    | ok b =>
      rw [exec_serialIncoming_ok s text b h, exec_brokerIncoming_ok s text b h, s.deliver_unawaited b hawaits]
      exact ⟨rfl, rfl⟩
    | error r =>
      rw [exec_serialIncoming_error s text r h, exec_brokerIncoming_error s text r h, s.deliverMalformed_unawaited hawaits]
      exact ⟨rfl, rfl⟩

/-! ### The incoming stream -/

/-- The line a waiting receive reads is executed (R142). -/
theorem step_of_line {s s1 : State} (line rest : List Byte) (hf : s.fetch = s1.fetchLine) (hawaits : s1.awaitsFrame = true)
    (hlink : s1.link = .serial) (hline : ¬ [charCR, charLF] <:+: line)
    (hstream : s1.incoming = line ++ [charCR, charLF] ++ rest) :
    step s = exec (.serialIncoming line) (s1.withIncoming rest) := by
  have hsplit : splitLine s1.incoming = some (line, rest) := by
    rw [hstream, List.append_assoc]
    exact splitLine_append line rest ((splitLine_eq_none_iff line).2 hline)
  exact step_of_fetch (hf.trans (s1.fetchLine_of_line line rest hawaits hlink hsplit))
    (decode_nextLine _ _ line rest hsplit).2

/-- An answer to the call the transport has taken (R134). -/
theorem State.answered_err (c : Call) (hwait : s.activity = .waiting c) (hout : s.outbound = []) :
    s.answered s.issued .err = s.callFailed c := by
  rw [State.answered, hwait]
  exact if_pos ((s.answersLast_iff _).2 ⟨rfl, hout⟩)

theorem State.answered_ok (c : Call) (text : List Byte) (hwait : s.activity = .waiting c) (hout : s.outbound = []) :
    s.answered s.issued (.ok text) = if c = .receive then s.arrive text else s.callSucceeded := by
  rw [State.answered, hwait]
  exact if_pos ((s.answersLast_iff _).2 ⟨rfl, hout⟩)

/-- An answer that brings up no unit is carried out. -/
theorem step_answered (n : Nat) (a : Answer) (es : List Event) (hscript : s.events = .answer n a :: es)
    (hf : (s.withEvents es).fetchAnswer n a = none) : step s = .next ((s.withEvents es).answered n a) := by
  simp only [step_of_no_fetch ((s.fetch_answer n a es hscript).trans hf), State.runEvent, hscript]

/-- Settles O43: the unread characters and those that arrive are the stream; it is cut at its first CR LF. -/
theorem serialStreamIsReadLineByLine : Obligations.SerialStreamIsReadLineByLine := by
  intro s text es hlink hwait hout
  have hawaits : s.awaitsFrame = true := s.awaitsFrame_iff.2 ⟨hwait, hout⟩
  have hdec : s.activity ≠ .decoding := by simp [hwait]
  refine ⟨fun he => ?_, fun line rest hline hstream => ⟨fun he => ?_, fun he => ?_⟩⟩
  · have hf : s.fetch = ((s.withEvents es).withIncoming (s.incoming ++ text)).fetchLine :=
      (s.fetch_answer _ _ es he).trans ((s.withEvents es).fetchAnswer_serial text hawaits hlink)
    refine ⟨fun hnoLine => ?_, fun line rest hline hstream => step_of_line line rest hf hawaits hlink hline hstream⟩
    have hnone := State.fetchLine_of_noLine ((s.withEvents es).withIncoming (s.incoming ++ text))
      ((splitLine_eq_none_iff _).2 hnoLine)
    have hanswered : (s.withEvents es).answered s.issued (.ok text) = (s.withEvents es).arrive text :=
      (s.withEvents es).answered_ok .receive text hwait hout
    have harrive : (s.withEvents es).arrive text = (s.withEvents es).withIncoming (s.incoming ++ text) := by
      rw [State.arrive_eq]
      exact congrArg _ (if_pos hlink)
    rw [step_answered s _ _ es he ((s.fetch_answer _ _ es he).symm.trans (hf.trans hnone)), hanswered, harrive]
    rfl
  · exact step_of_line line rest ((s.fetch_scriptOver he).trans (s.fetchTurn_line hout hdec)) hawaits hlink hline hstream
  · exact step_of_line line rest ((s.fetch_turn es he).trans ((s.withEvents es).fetchTurn_line hout hdec)) hawaits hlink
      hline hstream

/-! ### The end of a call -/

theorem State.raise_radioStandby (r : Raised) : (s.raise r).radioStandby = s.radioStandby := by
  rw [State.raise]
  split <;> rfl

/-- U3: a failed call leaves open what it asked of the radio, and nothing else. -/
theorem State.radioAfterErr_eq (c : Call) :
    s.radioAfterErr c =
      { s with radioNetId := (s.radioAfterErr c).radioNetId, radioStandby := (s.radioAfterErr c).radioStandby
               draws := (s.radioAfterErr c).draws } := by
  cases c <;> rfl

/-- Settles O44: the failure is that of the running command, in the state with the radio left open. -/
theorem transportFailureRecorded : Obligations.TransportFailureRecorded := by
  intro s c es hwait hout hscript
  refine ⟨(s.withEvents es).callFailed c, ?_, ?_, fun hc => ?_, fun hc => ?_⟩
  · rw [step_answered s _ _ es hscript rfl]
    exact congrArg Host.Outcome.next ((s.withEvents es).answered_err c hwait hout)
  · by_cases hcmd : s.cmd = 0x05#8
    · have hh : ((s.withEvents es).radioAfterErr c).handshake = true := (State.handshake_iff _).2 (by simpa using hcmd)
      simp only [State.callFailed, State.raise, if_pos hh, if_pos hcmd, State.failHandshake_eq]
      rw [State.radioAfterErr_eq]
      simp [State.withFailed, State.withEnd, Cause.code]
    · have hh : ¬ ((s.withEvents es).radioAfterErr c).handshake = true :=
        mt (State.handshake_iff _).1 (by simpa using hcmd)
      simp only [State.callFailed, State.raise, if_neg hh, if_neg hcmd, State.endWith_eq]
      rw [State.radioAfterErr_eq]
      simp [State.withEnd, Cause.code]
  · rw [State.callFailed, State.raise_radioNetId]
    cases c with
    | setNetworkId n => exact absurd rfl (hc n)
    | _ => rfl
  · rw [State.callFailed, State.raise_radioStandby]
    cases c with
    | sleep => exact absurd rfl hc
    | _ => rfl

/-- Settles O50: an `ok` to a call other than a receive is the sequencer's next row, or the end of the command. -/
theorem okAnswersAdvance : Obligations.OkAnswersAdvance := by
  intro s c text es hwait hc hout hscript
  have hunawaited : s.awaitsFrame = false := s.awaitsFrame_of_activity (by simpa [hwait] using hc)
  have hf : (s.withEvents es).fetchAnswer s.issued (.ok text) = none := by
    simp [State.fetchAnswer, hunawaited]
  have hstep : step s = .next (s.withEvents es).callSucceeded := by
    rw [step_answered s _ _ es hscript hf]
    exact congrArg Host.Outcome.next (((s.withEvents es).answered_ok c text hwait hout).trans (if_neg hc))
  have hh : (s.withEvents es).handshake = true ↔ s.cmd = 0x05#8 := s.handshake_iff
  rw [hstep, State.callSucceeded]
  refine ⟨fun hcmd => ?_, fun hcmd => ?_⟩
  · rw [if_neg (mt hh.1 hcmd), State.succeed_eq]
    rfl
  · rw [if_pos (hh.2 hcmd), State.sequencerAnswered]
    refine ⟨?_, ?_, ?_, ?_, ?_⟩ <;> (intro hassoc; rw [State.withEvents_assoc, hassoc]; rfl)

end Sys2Proof.Machine
end

section
/-! PROOFS. The statements of the sequencer's acts and of the commands' calls (47_association_fsm.md R152 to R159;
48_host_commands.md R178 to R183). -/

namespace Sys2Proof.Machine

variable (s : State)

/-! ### The sequencer's act, row by row (R166) -/

theorem State.sequencerAct_listen (hassoc : s.assoc = .awaitingBroadcast) (hphase : s.phase = 0#2) :
    s.sequencerAct = some (s.issue .receive) := by
  simp [State.sequencerAct, hassoc, hphase]

theorem State.sequencerAct_announce (hassoc : s.assoc = .awaitingBroadcast) (hphase : s.phase = 1#2) :
    s.sequencerAct = some (s.sendFrame s.announceHead s.annBytes) := by
  simp [State.sequencerAct, hassoc, hphase]

theorem State.sequencerAct_announced (hassoc : s.assoc = .announced) :
    s.sequencerAct = some (s.issue (.setNetworkId s.bcNetId)) := by
  simp [State.sequencerAct, hassoc]

theorem State.sequencerAct_networkSwitched (hassoc : s.assoc = .networkSwitched) :
    s.sequencerAct = some (s.sendFrame s.initHead s.initPayload) := by
  simp [State.sequencerAct, hassoc]

theorem State.sequencerAct_initialized (hassoc : s.assoc = .initialized) : s.sequencerAct = some s.enterConfirming := by
  simp [State.sequencerAct, hassoc]

theorem State.sequencerAct_report (hassoc : s.assoc = .confirming) (hphase : s.phase = 1#2) :
    s.sequencerAct = some (s.sendFrame s.reportHead s.reportPayload) := by
  simp [State.sequencerAct, hassoc, hphase]

theorem State.sequencerAct_confirm (hassoc : s.assoc = .confirming) (hphase : s.phase = 2#2) :
    s.sequencerAct = some (s.issue .receive) := by
  simp [State.sequencerAct, hassoc, hphase]

/-- Settles O46: the rows of the table whose act sends no frame. -/
theorem sequencerCalls : Obligations.SequencerCalls := by
  intro s hseq
  refine ⟨fun hassoc hphase => ?_, fun hassoc => ?_, fun hassoc => ?_, fun hassoc hphase => ?_⟩ <;>
    refine OnTurn.of_act s _ hseq fun es => ?_
  · exact ⟨_, (s.withEvents es).sequencerAct_listen hassoc hphase, rfl⟩
  · exact ⟨_, (s.withEvents es).sequencerAct_announced hassoc, rfl⟩
  · exact ⟨_, (s.withEvents es).sequencerAct_initialized hassoc, rfl⟩
  · exact ⟨_, (s.withEvents es).sequencerAct_confirm hassoc hphase, rfl⟩

/-! ### The frames sent -/

/-- R95: a length byte for a payload that fits. -/
theorem lengthByte_ofNat_toNat {n : Nat} (h : n ≤ 249) : (BitVec.ofNat 8 (6 + n)).toNat = 6 + n := by
  rw [BitVec.toNat_ofNat, Nat.mod_eq_of_lt (by omega)]

theorem lengthByte_ofNat (n : Byte) : BitVec.ofNat 8 (6 + n.toNat) = 6#8 + n := by
  rw [BitVec.ofNat_add, BitVec.ofNat_toNat, BitVec.setWidth_eq]

/-- R154: the announce frame's header, byte by byte. -/
theorem State.announceHead_bytes : metaEncode s.announceHead =
    [6#8 + s.cfg.annPlen, s.bcFrom, 0x20#8, hiByte s.bcRequestId, loByte s.bcRequestId, s.bcRoa ||| 0x80#8,
      s.bcMsgType] := by
  rw [← lengthByte_ofNat]; rfl

/-- R159: the report's header, byte by byte. -/
theorem State.reportHead_bytes : metaEncode s.reportHead =
    [6#8 + s.cfg.tempPlen, s.bcFrom, 0x20#8, hiByte s.cfg.tempRequestId, loByte s.cfg.tempRequestId, s.cfg.tempRoa,
      s.cfg.tempMsgType] := by
  rw [← lengthByte_ofNat]; rfl

theorem probe_known : familyOf 0x20#8 ≠ none := by decide

/-- Settles O47: the header's seven bytes and the payload, as the codec writes them. -/
theorem announceAndInitFramesSent : Obligations.AnnounceAndInitFramesSent := by
  intro s hseq
  refine ⟨fun hassoc hphase hfits => ?_, fun hassoc => ?_⟩ <;> refine OnTurn.of_act s _ hseq fun es => ?_
  · have hact := (s.withEvents es).sequencerAct_announce hassoc hphase
    have hlen : (s.withEvents es).announceHead.length.toNat = 6 + (s.withEvents es).annBytes.length := by
      rw [State.annBytes, State.bytesAt_length]
      exact lengthByte_ofNat_toNat hfits
    have hsent := (s.withEvents es).sendFrame_spec _ _ probe_known hlen
    have hann : (s.withEvents es).annBytes = s.annBytes := s.withEvents_bytesAt es _ _
    rw [hann] at hact
    rw [State.announceHead_bytes, hann] at hsent
    exact ⟨_, hact, hsent⟩
  · exact ⟨_, (s.withEvents es).sequencerAct_networkSwitched hassoc,
      (s.withEvents es).sendFrame_spec _ _ probe_known rfl⟩

/-- R159: the report's payload has the template's length; two bytes are the temperature's, the others the template's. -/
theorem State.reportPayload_length : s.reportPayload.length = s.cfg.tempPlen.toNat := by
  rw [State.reportPayload, List.length_set, List.length_set, State.tempBytes, State.bytesAt_length]

theorem State.reportPayload_low (h : s.cfg.extTempOff.toNat + 2 ≤ s.cfg.tempPlen.toNat) :
    s.reportPayload[s.cfg.extTempOff.toNat]? = some (loByte s.cfg.extTemp) := by
  rw [State.reportPayload, List.getElem?_set_ne (by omega), List.getElem?_set_self]
  rw [State.tempBytes, State.bytesAt_length]; omega

theorem State.reportPayload_high (h : s.cfg.extTempOff.toNat + 2 ≤ s.cfg.tempPlen.toNat) :
    s.reportPayload[s.cfg.extTempOff.toNat + 1]? = some (hiByte s.cfg.extTemp) := by
  rw [State.reportPayload, List.getElem?_set_self]
  rw [List.length_set, State.tempBytes, State.bytesAt_length]; omega

theorem State.reportPayload_template (j : Nat) (hj : j < s.cfg.tempPlen.toNat) (hlow : j ≠ s.cfg.extTempOff.toNat)
    (hhigh : j ≠ s.cfg.extTempOff.toNat + 1) : s.reportPayload[j]? = some (s.byteAt (tempBase + j)) := by
  rw [State.reportPayload, List.getElem?_set_ne hhigh.symm, List.getElem?_set_ne hlow.symm, State.tempBytes]
  have hj' : j < (s.bytesAt tempBase s.cfg.tempPlen.toNat).length := by rwa [State.bytesAt_length]
  rw [List.getElem?_eq_getElem hj', State.bytesAt_getElem]

/-- Settles O48: the report's payload is a copy of the template with two bytes set; `BUF` alone is written. -/
theorem reportFrameSent : Obligations.ReportFrameSent := by
  intro s hseq hassoc hphase hready
  obtain ⟨-, ⟨-, hfits⟩, hoff⟩ := hready
  refine ⟨s.reportPayload, s.reportPayload_length, s.reportPayload_low hoff, s.reportPayload_high hoff,
    s.reportPayload_template, OnTurn.of_act s _ hseq fun es => ?_⟩
  have hact := (s.withEvents es).sequencerAct_report hassoc hphase
  have hpayload : (s.withEvents es).reportPayload = s.reportPayload := by
    rw [State.reportPayload, State.tempBytes, State.withEvents_bytesAt]
    rfl
  have hlen : (s.withEvents es).reportHead.length.toNat = 6 + (s.withEvents es).reportPayload.length := by
    rw [State.reportPayload_length]
    exact lengthByte_ofNat_toNat hfits
  have hsent := (s.withEvents es).sendFrame_spec _ _ probe_known hlen
  rw [hpayload] at hact
  rw [State.reportHead_bytes, hpayload] at hsent
  exact ⟨_, hact, hsent⟩

/-! ### The calls of the commands -/

/-- R181: the identity in the first four bytes of `BUF`. -/
theorem State.netIdOf_bufBytes (h : 4 ≤ s.bufLen.toNat) :
    netIdOf s.bufBytes =
      some ⟨s.byteAt bufBase, s.byteAt (bufBase + 1), s.byteAt (bufBase + 2), s.byteAt (bufBase + 3)⟩ := by
  obtain ⟨n, hn⟩ := Nat.exists_eq_add_of_le' h
  rw [State.bufBytes, hn]
  rfl

/-- Settles O22: each command, past its checks, starts and issues its call. -/
theorem commandsMakeTheirCall : Obligations.CommandsMakeTheirCall := by
  intro s
  refine ⟨fun hidle hready => ?_, ?_, fun hfour => ?_, fun hbytes => ?_, ?_⟩
  · have hwf : ¬ cfgWF s.cfg = false := by rw [(cfgWF_iff s.cfg).2 hready]; decide
    rw [exec, execAssocStart, if_neg (not_not_intro hidle), if_neg hwf, State.startCommand_issue]
    rfl
  · rw [exec, execTSleep, State.startCommand_issue]
  · simp only [exec, execTSetNid, s.netIdOf_bufBytes hfour, State.startCommand_issue, bufBase]
  · rw [exec, execTSend, if_neg hbytes, State.startCommand_issue]
  · rw [exec, execTReceive, State.startCommand_issue]

end Sys2Proof.Machine
end
